-- ==== Sys2Proof/Word.lean ====
section
/-! DEFINITION. The two widths the spec uses for whole values: a byte and a command or response word
(00_scope.md R6, R9). -/

namespace Sys2Proof

/-- A byte: 8 bits, bit 0 least significant (R9). Port registers, buffer entries and SHREG are bytes. -/
abbrev Byte := BitVec 8

/-- A command word or a response word (R6 CMD_WIDTH, RSP_WIDTH; R90, R96). -/
abbrev Word := BitVec 32

end Sys2Proof
end

