-- ==== Sys2Proof/Config.lean ====
section
/-! DEFINITION. The implementation parameters of 00_scope.md R6 and the free values of
93_implementation_defined.md (U1, U3, U4, U15). -/

namespace Sys2Proof

/-- The two open parameters of the engine (R6, D9): which bit of the 8-bit port is the clock line and which the
data line. No rule gives them a value; every definition of the model takes them as an argument (they are carried
in `State`). -/
structure Config where
  /-- SCL_BIT: index of the clock line in the port. -/
  sclBit : Fin 8
  /-- SDA_BIT: index of the data line in the port. -/
  sdaBit : Fin 8
deriving DecidableEq, Repr

namespace Config

/-- R6, U8: a configuration with SCL_BIT = SDA_BIT is not a configuration of this hardware. -/
def legal (c : Config) : Bool := c.sclBit != c.sdaBit

/-- A port bit is one of the two I2C bits (the six others are auxiliary, R13, R66). -/
def isI2c (c : Config) (i : Fin 8) : Bool := i == c.sclBit || i == c.sdaBit

/-- The example binding of 95_test_vectors.md (SCL_BIT = 0, SDA_BIT = 1), used where ONE value is needed:
`State.reset` and `decodeTableWord`. DESIGN CHOICE, unsafe (log 2): the spec leaves the binding open. -/
def board : Config := ⟨0, 1⟩

/-- RECOVER_MAX_PULSES (R6, D21): most clock pulses one RECOVER issues. -/
def recoverMaxPulses : Nat := 10

/-- The longest command in primitives: XFER with 255 bytes (R244: 47 + 36 x 255 = 9227). -/
def maxPrimitives : Nat := 9227

/-- U15, R73: whether the k-th primitive answered after the environment's list has run out faults. A free value:
nothing constrains it (log 3). -/
opaque freeFault : Nat → Bool

/-- U1, R73: the value of PORT_IN for the k-th completed PadRead after the environment's list has run out. A free
value (log 3). -/
opaque freeIn : Nat → Byte

/-- U3: whether the k-th faulted PadWrite or PadDir reached the pad all the same. A free value (log 7). -/
opaque freeReached : Nat → Bool

/-- U4, R47: the byte TXBUF[i] holds after the e-th reset until a TXWR writes it: any value, chosen at reset and
then stable. A free value (log 5). -/
opaque freeTx : Nat → Nat → Byte

/-- U4, R47: the byte RXBUF[i] holds after the e-th reset until an XFER.R writes it. A free value (log 5). -/
opaque freeRx : Nat → Nat → Byte

end Config

end Sys2Proof
end

