-- ==== Sys2Proof/Machine/Bits.lean ====
section
/-! DEFINITION. Bit-field helpers of the port (20_memory.md R67, 46_laws_across_families.md R174) and the reset
values of the port registers (10_state.md R47). -/

namespace Sys2Proof.Machine

/-- The byte with bit i alone set: `1 << i`. -/
def bitMask (i : Fin 8) : Byte := 1#8 <<< i.val

/-- A bit at place i: `b << i`. -/
def bitAt (i : Fin 8) (b : Bool) : Byte := (if b then 1#8 else 0#8) <<< i.val

/-- Bit insert, R174: `(v and not (1 << i)) or (b << i)`; only bit i changes. -/
def insertBit (v : Byte) (i : Fin 8) (b : Bool) : Byte := (v &&& ~~~(bitMask i)) ||| bitAt i b

/-- Masked write, R67 PadDir: `(v and not m) or (d and m)`. -/
def maskedWrite (v m d : Byte) : Byte := (v &&& ~~~m) ||| (d &&& m)

/-- Bit extract: `v[i]` (R9). -/
def testBit (v : Byte) (i : Fin 8) : Bool := v.getLsbD i.val

/-- A one-bit result in VAL[0], zero-extended to 8 bits (R10 zext_8). -/
def zextBit (b : Bool) : Byte := if b then 1 else 0

/-- PORT_OUT after reset (R47): clock high, data latch high, auxiliary bits 0. -/
def resetPortOut (c : Config) : Byte := bitMask c.sclBit ||| bitMask c.sdaBit

/-- PORT_DIR after reset (R47): clock driven, everything else released. -/
def resetPortDir (c : Config) : Byte := bitMask c.sclBit

end Sys2Proof.Machine
end

