-- ==== Sys2Proof/Syntax.lean ====
section
/-! DEFINITION. The twelve commands of 30_encoding.md R91, one constructor per row of the opcode table. -/

namespace Sys2Proof

/-- The engine's commands (R3, R14, R91). Operands are unsigned and used as they stand (R91). -/
inductive Instr where
  /-- START: the start condition (R121). -/
  | start
  /-- STOP: the stop condition (R122). -/
  | stop
  /-- WBIT b: one bit to the slave (R123). -/
  | wbit (b : Bool)
  /-- RBIT: one bit from the slave (R124). -/
  | rbit
  /-- WBYTE byte: eight bits to the slave, then its acknowledge (R130). -/
  | wbyte (byte : Byte)
  /-- RBYTE send_ack: eight bits from the slave, then the master's answer, ACK when true (R131). -/
  | rbyte (sendAck : Bool)
  /-- XFER.W addr, n: a write transaction of TXBUF[0..n-1] (R141). -/
  | xferW (addr : BitVec 7) (n : Byte)
  /-- XFER.R addr, n: a read transaction into RXBUF[0..n-1] (R142). -/
  | xferR (addr : BitVec 7) (n : Byte)
  /-- RECOVER force_stop: the bus-recovery sequence (R160). -/
  | recover (force : Bool)
  /-- AUXSET bit, value: one auxiliary output of the port (R170). -/
  | auxset (bit : Fin 8) (value : Bool)
  /-- TXWR idx, byte: store into TXBUF (R171). -/
  | txwr (idx : Byte) (byte : Byte)
  /-- RXRD idx: load from RXBUF (R172). -/
  | rxrd (idx : Byte)
deriving DecidableEq, Repr

end Sys2Proof
end

