-- ==== Sys2Proof/Machine/State.lean ====
section
/-! DEFINITION. The state of the engine (10_state.md), the world's inputs (R40 to R43, R73), the reasons a step
can stop, and reset (R47, R230). All of it is plain data. -/

namespace Sys2Proof.Machine

/-- FSM, the sequencer's state register (R32, R146, R161). Its numeric encoding is not specified (R32). -/
inductive Fsm where
  /-- IDLE: waits for a command. -/
  | idle
  /-- START: the five steps of START, in a transfer. -/
  | start
  /-- ADDRESS: the eight bits of ADDRB. -/
  | address
  /-- ACK_ADDR: the ninth bit after the address byte. -/
  | ackAddr
  /-- DATA_PHASE: the eight bits of one payload byte. -/
  | dataPhase
  /-- ACK_DATA: the ninth bit of one payload byte. -/
  | ackData
  /-- STOP: the six steps of STOP, in a transfer or a recovery. -/
  | stop
  /-- REC_SAMPLE: release and first sample of a recovery. -/
  | recSample
  /-- REC_PULSE: one clock pulse and sample of a recovery. -/
  | recPulse
  /-- SINGLE: a command that is one sub-sequence or one register access. -/
  | single
deriving DecidableEq, Repr

/-- The status codes by name (R96). -/
inductive Status where
  | ok | addressNacked | dataNacked | busTimeout | busStuck | unexpectedIdentity | illegalCmd
deriving DecidableEq, Repr

/-- The line steps of R67 and the two primitives of AUXSET (R170); each is exactly one primitive. -/
inductive Line where
  /-- `scl(b)`: PadWrite of PORT_OUT with the clock bit set to b. -/
  | scl (b : Bool)
  /-- `sda(b)`: PadWrite of PORT_OUT with the data bit set to b. -/
  | sda (b : Bool)
  /-- `oe(b)`: PadDir of the data line's direction. -/
  | oe (b : Bool)
  /-- `sample()`: PadRead. -/
  | sample
  /-- AUXSET's first primitive: PadWrite of PORT_OUT with an auxiliary bit set to the value. -/
  | auxOut (bit : Fin 8) (value : Bool)
  /-- AUXSET's second primitive: PadDir that makes the bit an output. -/
  | auxDir (bit : Fin 8)
deriving DecidableEq, Repr

/-- One event of a trace (R11): the line step done, with the whole 8-bit register value after it (for a PadRead,
the value the environment returned), or the fault that ends a command's trace. -/
inductive Event where
  | done (l : Line) (v : Byte)
  | fault
deriving DecidableEq, Repr

/-- The environment's answer to one primitive (R42, R73): `done`, `fault` (pad_fault), or `wait`: no phase_tick
yet, or a call that has not returned (R43, U16), log 1. -/
inductive PadAck where
  | done | fault | wait
deriving DecidableEq, Repr

/-- What the host drives in one step: `rst` is rst_n = 0 (R43), `cmd` is cmd_data with cmd_valid = 1 (R40),
`rspReady` is rsp_ready (R41). -/
structure HostPins where
  rst : Bool
  cmd : Option Word
  rspReady : Bool
deriving DecidableEq, Repr

/-- The host and the environment as inputs of the engine (log 3, log 6, log 7). None of it is engine state. -/
structure World where
  /-- the host's pin settings to come, one per step; after the list the pins are quiet. -/
  pins : List HostPins
  /-- the environment's answers to come, one per primitive attempt; after the list they are free (U15). -/
  padAck : List PadAck
  /-- the values of PORT_IN to come, one per completed PadRead; after the list they are free (U1). -/
  padIn : List Byte
  /-- how many free answers were used. -/
  ackDraws : Nat
  /-- how many free PORT_IN values were used. -/
  inDraws : Nat
  /-- how many faulted writes took a free "reached the pad" choice (U3). -/
  padDraws : Nat
  /-- the output byte the GPIO transport's pads hold (U3). -/
  gpioOut : Byte
  /-- the direction byte the GPIO transport's pads hold (U3). -/
  gpioDir : Byte
deriving DecidableEq, Repr

/-- A byte buffer (R39): the entries written since reset as (index, byte) pairs with strictly rising indices. An
unlisted entry has no value in the list (U4; what an engine read of it gives is `readTx`, `readRx`). -/
abbrev Memory := List Host.Cell

/-- The machine's state. -/
structure State where
  /-- the open parameters of R6; no step changes them. -/
  cfg : Config
  /-- PORT_OUT (R20). -/
  portOut : Byte
  /-- PORT_DIR (R21), 1 = driven. -/
  portDir : Byte
  /-- SHREG (R27). -/
  shreg : Byte
  /-- BITCNT (R28), 4 bits, range 0 to 8. -/
  bitcnt : BitVec 4
  /-- BYTECNT (R29). -/
  bytecnt : Byte
  /-- PULSECNT (R30), 4 bits, range 0 to RECOVER_MAX_PULSES. -/
  pulsecnt : BitVec 4
  /-- ADDRB, operand latch (R31, R93). -/
  addrb : Byte
  /-- RW, operand latch (R31), true = read. -/
  rw : Bool
  /-- LEN, operand latch (R31). -/
  len : Byte
  /-- FORCE, operand latch (R31). -/
  force : Bool
  /-- ACKF (R33), true = acknowledged. -/
  ackf : Bool
  /-- SBIT (R34), the last sample. -/
  sbit : Bool
  /-- ERR (R35), the status code of the last response. -/
  err : Byte
  /-- FSM (R32). -/
  fsm : Fsm
  /-- phase (R38): index of the next primitive inside the current sub-sequence, 0 to 5. -/
  phase : Nat
  /-- the command in progress (R32, R38; log 15). -/
  cur : Option Instr
  /-- the status the STOP state reports when it ends (R146, R161; log 15). -/
  stopStatus : Status
  /-- TXBUF (R39). -/
  txbuf : Memory
  /-- RXBUF (R39). -/
  rxbuf : Memory
  /-- the response port (R41): `some r` is rsp_valid = 1 with rsp_data = r. -/
  rsp : Option Word
  /-- the events so far, oldest first (R11, R67; log 16). -/
  trace : List Event
  /-- how often reset was applied, the index of the free buffer contents (U4; log 5). -/
  epoch : Nat
  /-- the host's and the environment's inputs. -/
  world : World
deriving DecidableEq, Repr

/-- Why a step stops with a fault. No rule of the spec halts the engine (R200, R210). -/
inductive Fault where
  /-- Raised by `step` alone, at a busy state whose sequencer position (FSM, phase, command) names no primitive.
  R38 gives such a position no meaning and no run reaches one. Safe: the model stops where the hardware has no
  state (log 10). -/
  | sequencerLost
deriving DecidableEq, Repr

/-- Why a step is refused. -/
inductive Refusal where
  /-- Raised by an arm of `exec` whose command has no meaning yet; no arm does. Safe. -/
  | notModelled (mnemonic : String)
  /-- Raised by `step` when SCL_BIT = SDA_BIT: "The model must refuse a configuration with SCL_BIT = SDA_BIT"
  (R6, U8). Safe (log 11). -/
  | illegalConfig
deriving DecidableEq, Repr

/-- The machine right after reset (R47, R230) for a configuration. What R47 does not list (phase by R38; the
command in progress, the pending STOP status and the model's own fields) is in log 15, 16, 3, 5, 6. -/
def State.resetWith (c : Config) : State where
  cfg := c
  portOut := resetPortOut c
  portDir := resetPortDir c
  shreg := 0
  bitcnt := 0
  bytecnt := 0
  pulsecnt := 0
  addrb := 0
  rw := false
  len := 0
  force := false
  ackf := false
  sbit := false
  err := 0
  fsm := .idle
  phase := 0
  cur := none
  stopStatus := .ok
  txbuf := []
  rxbuf := []
  rsp := none
  trace := []
  epoch := 0
  world :=
    { pins := [], padAck := [], padIn := [], ackDraws := 0, inDraws := 0, padDraws := 0
      gpioOut := resetPortOut c, gpioDir := resetPortDir c }

/-- The machine right after reset, with the example binding of 95_test_vectors.md (DESIGN CHOICE, unsafe, log 2:
the spec leaves SCL_BIT and SDA_BIT open; statements about reset are made for every configuration). -/
def State.reset : State := State.resetWith Config.board

end Sys2Proof.Machine
end

