-- ==== Sys2Proof/Machine/Flags.lean ====
section
/-! DEFINITION. Flags and status: the ACK sense, the status codes, the response word, BUSY, the line state
(10_state.md R23, R33 to R36; 30_encoding.md R96; 41_byte_ops.md R132). -/

namespace Sys2Proof.Machine

/-- R132: ACK is a low ninth bit; `ACKF <- not s`. -/
def ackOf (sample : Bool) : Bool := !sample

/-- R131, R132: the bit the master drives to answer a received byte: 0 to acknowledge, 1 to refuse. -/
def answerBit (sendAck : Bool) : Bool := !sendAck

/-- The numeric status codes of R96. -/
def Status.code : Status → Byte
  | .ok => 0x00
  | .addressNacked => 0x01
  | .dataNacked => 0x02
  | .busTimeout => 0x03
  | .busStuck => 0x04
  | .unexpectedIdentity => 0x05
  | .illegalCmd => 0xFF

/-- The response word {ST, CNT, 0x00, VAL} (R96). -/
def response (st : Status) (cnt val : Byte) : Word := st.code ++ cnt ++ (0x00 : Byte) ++ val

/-- ST, bits 31:24 of a response (R96). -/
def rspST (r : Word) : Byte := r.extractLsb' 24 8
/-- CNT, bits 23:16 of a response (R96). -/
def rspCNT (r : Word) : Byte := r.extractLsb' 16 8
/-- VAL, bits 7:0 of a response (R96). -/
def rspVAL (r : Word) : Byte := r.extractLsb' 0 8

namespace State

/-- SCL (R23). -/
def scl (s : State) : Bool := testBit s.portOut s.cfg.sclBit
/-- SDA (R23). -/
def sda (s : State) : Bool := testBit s.portOut s.cfg.sdaBit
/-- SDA_OE (R23). -/
def sdaOe (s : State) : Bool := testBit s.portDir s.cfg.sdaBit
/-- SCL_OE (R23). -/
def sclOe (s : State) : Bool := testBit s.portDir s.cfg.sclBit

/-- The line state (SCL, SDA, SDA_OE) (R23). -/
def lineState (s : State) : Bool × Bool × Bool := (s.scl, s.sda, s.sdaOe)

/-- BUSY (R36): FSM is not IDLE or a response is waiting to be taken. -/
def busy (s : State) : Bool := s.fsm != .idle || s.rsp.isSome

/-- cmd_ready (R40) = not BUSY. -/
def cmdReady (s : State) : Bool := !s.busy

/-- rsp_valid (R41). -/
def rspValid (s : State) : Bool := s.rsp.isSome

/-- pad_out (R42) = PORT_OUT. -/
def padOut (s : State) : Byte := s.portOut

/-- pad_oe (R42) = PORT_DIR. -/
def padOe (s : State) : Byte := s.portDir

end State

/-- The idle line state (R13, R23): clock driven high, data released, data latch high. -/
def idleLine : Bool × Bool × Bool := (true, true, false)

end Sys2Proof.Machine
end

