-- ==== Sys2Proof/Machine/Ops.lean ====
section
/-! DEFINITION. The named operations over buffers, the world's inputs, the port and the response port: buffer
access (20_memory.md R60 to R66), the three primitives (R67), `respond` (00_scope.md R10), a failure's entry
(60_exceptions.md R204, R206, R210), the handshakes (10_state.md R40, R41) and reset (70_reset_and_hazards.md
R230). -/

namespace Sys2Proof.Machine

/-! ### Buffers -/

namespace Memory

/-- The byte written at an index since reset, if any. -/
def read : Memory → Nat → Option Byte
  | [], _ => none
  | (i, v) :: m, k => if i = k then some v else read m k

/-- Store one byte, keeping the indices strictly rising. -/
def write : Memory → Nat → Byte → Memory
  | [], k, b => [(k, b)]
  | (i, v) :: m, k, b =>
    if k < i then (k, b) :: (i, v) :: m
    else if k = i then (k, b) :: m
    else (i, v) :: write m k b

/-- The canonical form: indices strictly rising and below BUF_DEPTH = 256 (R60). An unlisted entry reads as no
value, so no entry can equal what an unlisted index reads as. -/
def wf (m : Memory) : Bool :=
  m.Pairwise (fun a b => a.1 < b.1) && m.all (fun c => c.1 < 256)

end Memory

/-- MemRead(TX, i, 1) (R10): TXBUF[i]; an entry not written since reset is a free byte, stable until the next reset
(R47, U4, log 5). -/
def readTx (s : State) (i : Byte) : Byte := (s.txbuf.read i.toNat).getD (Config.freeTx s.epoch i.toNat)

/-- MemRead(RX, i, 1) (R10), as `readTx`. -/
def readRx (s : State) (i : Byte) : Byte := (s.rxbuf.read i.toNat).getD (Config.freeRx s.epoch i.toNat)

/-- MemWrite(TX, i, 1, v) (R10). -/
def writeTx (i v : Byte) (s : State) : State := { s with txbuf := s.txbuf.write i.toNat v }

/-- MemWrite(RX, i, 1, v) (R10). -/
def writeRx (i v : Byte) (s : State) : State := { s with rxbuf := s.rxbuf.write i.toNat v }

/-! ### The world's inputs -/

/-- The k-th free answer to a primitive: done or fault, never wait (U15; log 4). -/
def freeAck (k : Nat) : PadAck := if Config.freeFault k then .fault else .done

namespace World

/-- The environment's answer to the next primitive (R42, R73). -/
def ack (w : World) : PadAck :=
  match w.padAck with
  | a :: _ => a
  | [] => freeAck w.ackDraws

/-- The inputs after one answer was taken. -/
def dropAck (w : World) : World :=
  match w.padAck with
  | _ :: r => { w with padAck := r }
  | [] => { w with ackDraws := w.ackDraws + 1 }

/-- PORT_IN for the next completed PadRead (R22, R73). -/
def portIn (w : World) : Byte :=
  match w.padIn with
  | v :: _ => v
  | [] => Config.freeIn w.inDraws

/-- The inputs after one PORT_IN value was taken. -/
def dropIn (w : World) : World :=
  match w.padIn with
  | _ :: r => { w with padIn := r }
  | [] => { w with inDraws := w.inDraws + 1 }

/-- The host's pins in this step (R40, R41, R43); after the list they are quiet (log 6). -/
def hostPins (w : World) : HostPins :=
  match w.pins with
  | p :: _ => p
  | [] => ⟨false, none, false⟩

/-- The inputs after one step's pins were read. -/
def dropPins (w : World) : World := { w with pins := w.pins.tail }

/-- The pads take an output byte (R42). -/
def setOut (v : Byte) (w : World) : World := { w with gpioOut := v }

/-- The pads take a direction byte (R42). -/
def setDir (d : Byte) (w : World) : World := { w with gpioDir := d }

/-- U3: a faulted PadWrite of v may or may not have reached the pad. -/
def faultedOut (v : Byte) (w : World) : World :=
  { w with gpioOut := if Config.freeReached w.padDraws then v else w.gpioOut, padDraws := w.padDraws + 1 }

/-- U3: a faulted PadDir to d may or may not have reached the pad. -/
def faultedDir (d : Byte) (w : World) : World :=
  { w with gpioDir := if Config.freeReached w.padDraws then d else w.gpioDir, padDraws := w.padDraws + 1 }

end World

/-- One answer of the environment is taken. -/
def takeAck (s : State) : State := { s with world := s.world.dropAck }

/-- The host's pins of this step are read. -/
def takePins (s : State) : State := { s with world := s.world.dropPins }

/-! ### The primitives (R67) -/

/-- PadWrite(v), done. -/
def padWrite (l : Line) (v : Byte) (s : State) : State :=
  { s with portOut := v, trace := s.trace ++ [.done l v], world := s.world.setOut v }

/-- PadDir(m, d), done. -/
def padDir (l : Line) (m d : Byte) (s : State) : State :=
  { s with
    portDir := maskedWrite s.portDir m d
    trace := s.trace ++ [.done l (maskedWrite s.portDir m d)]
    world := s.world.setDir (maskedWrite s.portDir m d) }

/-- PadRead(), done: SBIT takes bit SDA_BIT of the value. -/
def padRead (l : Line) (s : State) : State :=
  { s with
    sbit := testBit s.world.portIn s.cfg.sdaBit
    trace := s.trace ++ [.done l s.world.portIn]
    world := s.world.dropIn }

/-- The value a line step writes to PORT_OUT, for the line steps that are a PadWrite (R67, R170). -/
def lineOut (s : State) : Line → Option Byte
  | .scl b => some (insertBit s.portOut s.cfg.sclBit b)
  | .sda b => some (insertBit s.portOut s.cfg.sdaBit b)
  | .auxOut i b => some (insertBit s.portOut i b)
  | .oe _ => none
  | .sample => none
  | .auxDir _ => none

/-- The mask and directions of a line step that is a PadDir (R67, R170). -/
def lineDir (s : State) : Line → Option (Byte × Byte)
  | .oe b => some (bitMask s.cfg.sdaBit, bitAt s.cfg.sdaBit b)
  | .auxDir i => some (bitMask i, bitMask i)
  | .scl _ => none
  | .sda _ => none
  | .sample => none
  | .auxOut _ _ => none

/-- A line step, done (R67): exactly one primitive, performed also when it changes nothing. -/
def perform (l : Line) (s : State) : State :=
  match lineOut s l, lineDir s l with
  | some v, _ => padWrite l v s
  | none, some (m, d) => padDir l m d s
  | none, none => padRead l s

/-- What a faulted line step leaves (R67, R204): no engine register changes; the event is FAULT; the pad may hold
the old or the new value (U3). -/
def performFault (l : Line) (s : State) : State :=
  match lineOut s l, lineDir s l with
  | some v, _ => { s with trace := s.trace ++ [.fault], world := s.world.faultedOut v }
  | none, some (m, d) =>
    { s with trace := s.trace ++ [.fault], world := s.world.faultedDir (maskedWrite s.portDir m d) }
  | none, none => { s with trace := s.trace ++ [.fault] }

/-! ### The response and the failures -/

/-- `respond(st, cnt, val)` (R10): the response word is put on the port, ERR takes the status, FSM goes to IDLE;
between commands the sequencer position is (IDLE, 0) and no command is in progress (R38). -/
def respond (st : Status) (cnt val : Byte) (s : State) : State :=
  { s with rsp := some (response st cnt val), err := st.code, fsm := .idle, phase := 0, cur := none }

/-- CNT of a response that ends a transfer or a recovery, or that reports a fault (R97, R204): BYTECNT for XFER,
PULSECNT for RECOVER, 0 otherwise. -/
def countOf (s : State) : Byte :=
  match s.cur with
  | some (.xferW _ _) => s.bytecnt
  | some (.xferR _ _) => s.bytecnt
  | some (.recover _) => s.pulsecnt.setWidth 8
  | _ => 0

/-- BUS_TIMEOUT (R204): a primitive faulted; no further primitive, no STOP; the response is given at once. -/
def busTimeout (l : Line) (s : State) : State :=
  respond .busTimeout (countOf s) 0 (performFault l s)

/-- ILLEGAL_CMD (R94, R206): no primitive, nothing written but ERR and the response. -/
def illegalCmd (s : State) : State :=
  { s with rsp := some (response .illegalCmd 0 0), err := Status.illegalCmd.code }

/-- The response is taken (R41). -/
def takeResponse (s : State) : State := { s with rsp := none }

/-- Reset (R230): every register at its value of R47, a command in progress abandoned without a response, a waiting
response dropped, no event; the buffers' contents are open again (R231); the environment is not reset (R232). -/
def applyReset (s : State) : State :=
  { State.resetWith s.cfg with
    trace := s.trace
    epoch := s.epoch + 1
    world := (s.world.setOut (resetPortOut s.cfg)).setDir (resetPortDir s.cfg) }

end Sys2Proof.Machine
end

