-- ==== Sys2Proof/Machine/Operands.lean ====
section
/-! DEFINITION. Accepting a command: its operands latched (10_state.md R31, R40), and the shift register's two
operations (41_byte_ops.md R133, R134; 46_laws_across_families.md R174). -/

namespace Sys2Proof.Machine

/-- The address byte {A[6:0], is_read} (R93). -/
def addressByte (addr : BitVec 7) (isRead : Bool) : Byte := addr ++ BitVec.ofBool isRead

/-- A command is accepted (R40): it is in progress, the FSM enters its first state at phase 0. -/
def accept (i : Instr) (f : Fsm) (s : State) : State := { s with cur := some i, fsm := f, phase := 0 }

/-- The latches of a transfer (R31, R146): ADDRB, RW, LEN; BYTECNT is cleared (R29, R140). -/
def latchTransfer (addr : BitVec 7) (isRead : Bool) (n : Byte) (s : State) : State :=
  { s with addrb := addressByte addr isRead, rw := isRead, len := n, bytecnt := 0 }

/-- The latch of a recovery (R31, R161): FORCE; PULSECNT is cleared (R30, R160). -/
def latchRecovery (force : Bool) (s : State) : State := { s with force := force, pulsecnt := 0 }

/-- A byte to send is loaded (R28, R130): SHREG takes it, BITCNT is 8. -/
def loadByte (v : Byte) (s : State) : State := { s with shreg := v, bitcnt := 8 }

/-- The transmit shift after one bit (R130, R174): 0 enters at bit 0, BITCNT counts down. -/
def shiftOut (s : State) : State := { s with shreg := s.shreg <<< 1, bitcnt := s.bitcnt - 1 }

/-- The receive shift (R134, R174): the sampled bit enters at bit 0. -/
def shiftInBit (v : Byte) (b : Bool) : Byte := (v <<< 1) ||| zextBit b

/-- The receive shift after one bit (R131): the last sample enters SHREG, BITCNT counts down. -/
def shiftIn (s : State) : State := { s with shreg := shiftInBit s.shreg s.sbit, bitcnt := s.bitcnt - 1 }

/-- The ninth-bit sample of a byte the master sent (R33, R132). -/
def detectAck (s : State) : State := { s with ackf := ackOf s.sbit }

end Sys2Proof.Machine
end

