-- ==== Sys2Proof/Machine/Sequencer.lean ====
section
/-! DEFINITION. The sequencer: the sub-sequences of line steps (40_line_primitives.md R121 to R124), the FSM of a
transfer (42_transfer.md R146) and of a recovery (43_recovery.md R161), the step of one primitive (00_scope.md R7)
and the run of a command up to its response or a wait. -/

namespace Sys2Proof.Machine

/-! ### Sub-sequences -/

/-- The five line steps of START (R121). -/
def startSeq : List Line := [.sda true, .oe true, .scl true, .sda false, .scl false]

/-- The six line steps of STOP (R122). -/
def stopSeq : List Line := [.scl false, .sda false, .oe true, .scl true, .sda true, .oe false]

/-- The four line steps of WBIT b (R123). -/
def wbitSeq (b : Bool) : List Line := [.sda b, .oe true, .scl true, .scl false]

/-- The four line steps of RBIT (R124). -/
def rbitSeq : List Line := [.oe false, .scl true, .sample, .scl false]

/-- The two primitives of AUXSET (R170). -/
def auxSeq (bit : Fin 8) (value : Bool) : List Line := [.auxOut bit value, .auxDir bit]

/-- REC_SAMPLE: release and sample (R160, R161). -/
def recSampleSeq : List Line := [.oe false, .sample]

/-- REC_PULSE: one pulse, low then high, then a sample with the clock high (R160 to R162). -/
def recPulseSeq : List Line := [.scl false, .scl true, .sample]

/-- SHREG[7], the bit a transmit sends next (R27, R133). -/
def shiftBit (s : State) : Bool := testBit s.shreg 7

/-- The master's ninth bit in a read (R142, R146): NACK (1) on the final byte, ACK (0) before. -/
def readAnswer (s : State) : Bool := s.bytecnt == s.len - 1

/-- The sub-sequence of a command that runs in state SINGLE (R32, R120, R130, R131, R170). TXWR and RXRD have no
primitive (R171, R172); the others do not run in SINGLE. -/
def singleSeq (s : State) : Instr → List Line
  | .start => startSeq
  | .stop => stopSeq
  | .wbit b => wbitSeq b
  | .rbit => rbitSeq
  | .wbyte _ => if s.bitcnt = 0 then rbitSeq else wbitSeq (shiftBit s)
  | .rbyte sendAck => if s.bitcnt = 0 then wbitSeq (answerBit sendAck) else rbitSeq
  | .auxset bit value => auxSeq bit value
  | .xferW _ _ => []
  | .xferR _ _ => []
  | .recover _ => []
  | .txwr _ _ => []
  | .rxrd _ => []

/-- The line steps performed in the current state (the tables of R146 and R161). -/
def currentSeq (s : State) : List Line :=
  match s.fsm with
  | .idle => []
  | .start => startSeq
  | .address => wbitSeq (shiftBit s)
  | .ackAddr => rbitSeq
  | .dataPhase => if s.rw then rbitSeq else wbitSeq (shiftBit s)
  | .ackData => if s.rw then wbitSeq (readAnswer s) else rbitSeq
  | .stop => stopSeq
  | .recSample => recSampleSeq
  | .recPulse => recPulseSeq
  | .single =>
    match s.cur with
    | some i => singleSeq s i
    | none => []

/-- The next primitive of the command in progress (R38). -/
def nextLine (s : State) : Option Line := (currentSeq s)[s.phase]?

/-! ### Transitions: what happens between the last primitive of a sub-sequence and the next one -/

/-- The next primitive inside the sub-sequence is the p-th (R38). -/
def setPhase (p : Nat) (s : State) : State := { s with phase := p }

/-- BYTECNT counts one payload byte (R29). -/
def addByte (s : State) : State := { s with bytecnt := s.bytecnt + 1 }

/-- PULSECNT counts one pulse (R30). -/
def addPulse (s : State) : State := { s with pulsecnt := s.pulsecnt + 1 }

/-- Enter an FSM state at its first primitive. -/
def enter (f : Fsm) (s : State) : State := { s with fsm := f, phase := 0 }

/-- Enter STOP with the status it will report (R146, R161). -/
def enterStop (st : Status) (s : State) : State := { s with fsm := .stop, phase := 0, stopStatus := st }

/-- Enter DATA_PHASE (R146): RW = 0 loads TXBUF[BYTECNT], RW = 1 clears SHREG; BITCNT is 8. -/
def enterData (s : State) : State :=
  enter .dataPhase (loadByte (if s.rw then 0 else readTx s s.bytecnt) s)

/-- End of ACK_ADDR (R146, R201): ADDRESS_NACKED, the address-only write, or the first data phase. -/
def finishAckAddr (s : State) : State :=
  let s := detectAck s
  if !s.ackf then enterStop .addressNacked s
  else if !s.rw && s.len == 0 then enterStop .ok s
  else enterData s

/-- One payload byte is complete (R146): BYTECNT counts it; STOP with OK when BYTECNT = LEN, else the next one. -/
def countByte (s : State) : State :=
  let s := addByte s
  if s.bytecnt = s.len then enterStop .ok s else enterData s

/-- End of one bit of DATA_PHASE (R146): shift; after the eighth bit of a received byte it is stored in
RXBUF[BYTECNT] (R142); after the eighth bit ACK_DATA follows. DEDUCED, unsafe (log 9): this happens after the whole
RBIT, so a fault on the clock fall right after the eighth sample leaves SHREG and RXBUF[BYTECNT] unwritten; R65 and
R142 leave that place open. -/
def finishDataBit (s : State) : State :=
  if s.rw then
    let s := shiftIn s
    if s.bitcnt = 0 then enter .ackData (writeRx s.bytecnt s.shreg s) else enter .dataPhase s
  else
    let s := shiftOut s
    if s.bitcnt = 0 then enter .ackData s else enter .dataPhase s

/-- End of ACK_DATA (R146, R202): in a write the sampled bit decides; in a read nothing was sampled. -/
def finishAckData (s : State) : State :=
  if s.rw then countByte s
  else
    let s := detectAck s
    if s.ackf then countByte s else enterStop .dataNacked s

/-- End of REC_SAMPLE (R161, R164): free and not forced, free and forced, or held. -/
def finishRecSample (s : State) : State :=
  if s.sbit then
    if s.force then enterStop .ok s else respond .ok 0 0 s
  else enter .recPulse s

/-- End of one pulse (R161, R163): released, held under the bound, or held at the bound. -/
def finishRecPulse (s : State) : State :=
  if s.sbit then enterStop .ok s
  else if s.pulsecnt.toNat < Config.recoverMaxPulses then enter .recPulse s
  else enterStop .busStuck s

/-- End of a sub-sequence of a command in state SINGLE (R121 to R124, R130, R131, R170): the response of R97, or
the next bit of a byte. -/
def finishSingle (s : State) : Instr → State
  | .start => respond .ok 0 0 s
  | .stop => respond .ok 0 0 s
  | .wbit _ => respond .ok 0 0 s
  | .rbit => respond .ok 0 (zextBit s.sbit) s
  | .wbyte _ =>
    if s.bitcnt = 0 then respond .ok 0 (zextBit (ackOf s.sbit)) (detectAck s) else enter .single (shiftOut s)
  | .rbyte _ => if s.bitcnt = 0 then respond .ok 0 s.shreg s else enter .single (shiftIn s)
  | .auxset _ _ => respond .ok 0 0 s
  | .xferW _ _ => s
  | .xferR _ _ => s
  | .recover _ => s
  | .txwr _ _ => s
  | .rxrd _ => s

/-- The transition at the end of the current sub-sequence (the column "leaves to" of R146 and R161). -/
def finishSeq (s : State) : State :=
  match s.fsm with
  | .idle => s
  | .start => enter .address (loadByte s.addrb s)
  | .address => let s := shiftOut s; if s.bitcnt = 0 then enter .ackAddr s else enter .address s
  | .ackAddr => finishAckAddr s
  | .dataPhase => finishDataBit s
  | .ackData => finishAckData s
  | .stop => respond s.stopStatus (countOf s) 0 s
  | .recSample => finishRecSample s
  | .recPulse => finishRecPulse s
  | .single =>
    match s.cur with
    | some i => finishSingle s i
    | none => s

/-- REC_PULSE counts its pulse between the clock's rise and the sample (R160, R161). -/
def countPulse (s : State) : State :=
  if s.fsm = .recPulse ∧ s.phase = 1 then addPulse s else s

/-- The sequencer moves past a completed primitive (R38): the next phase, or the end of the sub-sequence. -/
def advancePhase (s : State) : State :=
  if s.phase + 1 < (currentSeq s).length then setPhase (s.phase + 1) s else finishSeq s

/-! ### One primitive, and a run of them -/

/-- ONE STEP OF THE ENGINE as the spec counts steps (R7, R67): the next primitive is offered to the environment.
`done` performs it and moves on; `fault` ends the command with BUS_TIMEOUT (R204); `wait` leaves the engine where
it is (R43, U16). -/
def primStep (s : State) : State :=
  match nextLine s with
  | none => s
  | some l =>
    match s.world.ack with
    | .done => advancePhase (countPulse (perform l (takeAck s)))
    | .fault => busTimeout l (takeAck s)
    | .wait => takeAck s

/-- The engine runs: primitive after primitive until the command has its response, the environment makes it wait,
or the given number of primitives is reached (log 1). -/
def advance : Nat → State → State
  | 0, s => s
  | k + 1, s =>
    if s.fsm = .idle then s
    else if s.world.ack = .wait then primStep s
    else advance k (primStep s)

/-- The run of the command in progress. No command is longer than `Config.maxPrimitives` (R244). -/
def runCommand (s : State) : Host.Outcome State Fault Refusal := .next (advance Config.maxPrimitives s)

end Sys2Proof.Machine
end

