-- ==== Sys2Proof/Machine/ByteCmds.lean ====
section
/-! DEFINITION. The meanings of the byte commands WBYTE and RBYTE (41_byte_ops.md). -/

namespace Sys2Proof.Machine

/-- WBYTE byte (R130): SHREG and BITCNT loaded, eight `wbitSeq`, then `rbitSeq`, ACKF from its sample, and
respond(OK, 0, ACKF). -/
def execWbyte (byte : Byte) (s : State) : Host.Outcome State Fault Refusal :=
  runCommand (loadByte byte (accept (.wbyte byte) .single s))

/-- RBYTE send_ack (R131): SHREG cleared, eight `rbitSeq`, then the master's answer bit, and
respond(OK, 0, SHREG). -/
def execRbyte (sendAck : Bool) (s : State) : Host.Outcome State Fault Refusal :=
  runCommand (loadByte 0 (accept (.rbyte sendAck) .single s))

end Sys2Proof.Machine
end

