-- ==== Sys2Proof/Machine/Line.lean ====
section
/-! DEFINITION. The meanings of the line commands START, STOP, WBIT, RBIT (40_line_primitives.md). Each is accepted
in FSM state SINGLE and performs its line steps in order (R120); the sub-sequences are in Sequencer.lean. -/

namespace Sys2Proof.Machine

/-- START (R121): `startSeq`, then respond(OK, 0, 0). -/
def execStart (s : State) : Host.Outcome State Fault Refusal := runCommand (accept .start .single s)

/-- STOP (R122): `stopSeq`, then respond(OK, 0, 0). -/
def execStop (s : State) : Host.Outcome State Fault Refusal := runCommand (accept .stop .single s)

/-- WBIT b (R123): `wbitSeq b`, then respond(OK, 0, 0). -/
def execWbit (b : Bool) (s : State) : Host.Outcome State Fault Refusal := runCommand (accept (.wbit b) .single s)

/-- RBIT (R124): `rbitSeq`, then respond(OK, 0, s) with the sample s in VAL[0]. -/
def execRbit (s : State) : Host.Outcome State Fault Refusal := runCommand (accept .rbit .single s)

end Sys2Proof.Machine
end

