-- ==== Sys2Proof/Machine/PortBuffer.lean ====
section
/-! DEFINITION. The meanings of AUXSET, TXWR and RXRD (44_port_and_buffer.md R170 to R172). -/

namespace Sys2Proof.Machine

/-- AUXSET bit, value (R170): the latch takes the value, then the bit becomes an output. An I2C bit is no operand:
"ILLEGAL_CMD for an I2C bit, with nothing written" (log 12; no word decodes to it). -/
def execAuxset (bit : Fin 8) (value : Bool) (s : State) : Host.Outcome State Fault Refusal :=
  if s.cfg.isI2c bit then .next (illegalCmd s)
  else runCommand (accept (.auxset bit value) .single s)

/-- TXWR idx, byte (R171): one store, no primitive, respond(OK, 0, 0). -/
def execTxwr (idx byte : Byte) (s : State) : Host.Outcome State Fault Refusal :=
  .next (respond .ok 0 0 (writeTx idx byte s))

/-- RXRD idx (R172): respond(OK, 0, RXBUF[idx]), no primitive. -/
def execRxrd (idx : Byte) (s : State) : Host.Outcome State Fault Refusal :=
  .next (respond .ok 0 (readRx s idx) s)

end Sys2Proof.Machine
end

