-- ==== Sys2Proof/Machine/Recovery.lean ====
section
/-! DEFINITION. The meaning of RECOVER (43_recovery.md R160 to R165). The walk through REC_SAMPLE, REC_PULSE, STOP
is the sequencer's (R161). -/

namespace Sys2Proof.Machine

/-- RECOVER force_stop (R160). -/
def execRecover (force : Bool) (s : State) : Host.Outcome State Fault Refusal :=
  runCommand (latchRecovery force (accept (.recover force) .recSample s))

end Sys2Proof.Machine
end

