-- ==== Sys2Proof/Machine/Transfer.lean ====
section
/-! DEFINITION. The meanings of the transfer commands XFER.W and XFER.R (42_transfer.md R140 to R149). The walk
through START, ADDRESS, ACK_ADDR, DATA_PHASE, ACK_DATA, STOP is the sequencer's (R146). -/

namespace Sys2Proof.Machine

/-- XFER.W addr, n (R141): TXBUF[0..n-1] is sent; a NACK ends it with a STOP. n = 0 is the address-only
transaction. -/
def execXferW (addr : BitVec 7) (n : Byte) (s : State) : Host.Outcome State Fault Refusal :=
  runCommand (latchTransfer addr false n (accept (.xferW addr n) .start s))

/-- XFER.R addr, n (R142): n bytes are received into RXBUF[0..n-1], ACK on all but the final byte. n = 0 is no
command (R94): ILLEGAL_CMD, nothing done (log 12; no word decodes to it). -/
def execXferR (addr : BitVec 7) (n : Byte) (s : State) : Host.Outcome State Fault Refusal :=
  if n = 0 then .next (illegalCmd s)
  else runCommand (latchTransfer addr true n (accept (.xferR addr n) .start s))

end Sys2Proof.Machine
end

