-- ==== Sys2Proof/Machine/Dispatch.lean ====
section
/-! DEFINITION. One arm per command: the whole command, from its acceptance to its response (or to a wait). -/

namespace Sys2Proof.Machine

def exec (i : Instr) (s : State) : Host.Outcome State Fault Refusal :=
  match i with
  | .start => Sys2Proof.Machine.execStart s
  | .stop => Sys2Proof.Machine.execStop s
  | .wbit b => Sys2Proof.Machine.execWbit b s
  | .rbit => Sys2Proof.Machine.execRbit s
  | .wbyte byte => Sys2Proof.Machine.execWbyte byte s
  | .rbyte sendAck => Sys2Proof.Machine.execRbyte sendAck s
  | .xferW addr n => Sys2Proof.Machine.execXferW addr n s
  | .xferR addr n => Sys2Proof.Machine.execXferR addr n s
  | .recover force => Sys2Proof.Machine.execRecover force s
  | .auxset bit value => Sys2Proof.Machine.execAuxset bit value s
  | .txwr idx byte => Sys2Proof.Machine.execTxwr idx byte s
  | .rxrd idx => Sys2Proof.Machine.execRxrd idx s

end Sys2Proof.Machine
end

