-- ==== Sys2Proof/WellFormed.lean ====
section
/-! DEFINITION. The two extra conditions of 30_encoding.md R92 that the operand types do not carry. -/

namespace Sys2Proof

/-- A command that some word encodes: XFER.R reads at least one byte, AUXSET names an auxiliary bit (R92, R94).
Every other operand value is legal (R64, R91; N30: all 128 slave addresses). -/
def Instr.wf (c : Config) : Instr → Bool
  | .start => true
  | .stop => true
  | .wbit _ => true
  | .rbit => true
  | .wbyte _ => true
  | .rbyte _ => true
  | .xferW _ _ => true
  | .xferR _ n => n != 0
  | .recover _ => true
  | .auxset bit _ => !c.isI2c bit
  | .txwr _ _ => true
  | .rxrd _ => true

end Sys2Proof
end

