-- ==== Sys2Proof/Decode.lean ====
section
/-! DEFINITION. The command word: fields, opcode map, the decoder with its ordered checks, and the encoder
(30_encoding.md R90 to R95). -/

namespace Sys2Proof

/-- OP, bits 31:24 (R90). -/
def fieldOP (w : Word) : Byte := w.extractLsb' 24 8
/-- N, bits 23:16 (R90). -/
def fieldN (w : Word) : Byte := w.extractLsb' 16 8
/-- A, bits 15:8 (R90). -/
def fieldA (w : Word) : Byte := w.extractLsb' 8 8
/-- D, bits 7:0 (R90). -/
def fieldD (w : Word) : Byte := w.extractLsb' 0 8

/-- D[0], the one-bit operand of WBIT, RBYTE, XFER, RECOVER, AUXSET (R90). -/
def fieldD0 (w : Word) : Bool := (fieldD w).getLsbD 0
/-- A[6:0], the slave address (R90). -/
def fieldAddr (w : Word) : BitVec 7 := (fieldA w).extractLsb' 0 7
/-- A[2:0], the port bit index (R90). -/
def fieldBit (w : Word) : Fin 8 := ((fieldA w).extractLsb' 0 3).toFin

/-- The rows of the opcode map (R92). -/
inductive Opcode where
  | start | stop | wbit | rbit | wbyte | rbyte | xferW | xferR | recover | auxset | txwr | rxrd
deriving DecidableEq, Repr

namespace Opcode

/-- All rows, in the table's order. -/
def all : List Opcode :=
  [.start, .stop, .wbit, .rbit, .wbyte, .rbyte, .xferW, .xferR, .recover, .auxset, .txwr, .rxrd]

/-- The column "match" of R92. -/
def pattern : Opcode → Word
  | .start   => 0x01000000
  | .stop    => 0x02000000
  | .wbit    => 0x03000000
  | .rbit    => 0x04000000
  | .wbyte   => 0x05000000
  | .rbyte   => 0x06000000
  | .xferW   => 0x07000000
  | .xferR   => 0x07000001
  | .recover => 0x08000000
  | .auxset  => 0x09000000
  | .txwr    => 0x0A000000
  | .rxrd    => 0x0B000000

/-- The column "mask" of R92. -/
def mask : Opcode → Word
  | .start   => 0xFFFFFFFF
  | .stop    => 0xFFFFFFFF
  | .wbit    => 0xFFFFFFFE
  | .rbit    => 0xFFFFFFFF
  | .wbyte   => 0xFFFFFF00
  | .rbyte   => 0xFFFFFFFE
  | .xferW   => 0xFF0080FF
  | .xferR   => 0xFF0080FF
  | .recover => 0xFFFFFFFE
  | .auxset  => 0xFFFFF8FE
  | .txwr    => 0xFF00FF00
  | .rxrd    => 0xFF00FFFF

end Opcode

/-- Why a word is illegal (R94), in the order of the decoder's checks (R95). -/
inductive Illegal where
  /-- check 1: OP outside 0x01 to 0x0B. -/
  | opcode
  /-- check 3: a reserved bit of the chosen row is not 0. -/
  | reserved
  /-- check 4: XFER.R with N = 0. -/
  | readLength
  /-- check 4: AUXSET whose bit index is SCL_BIT or SDA_BIT. -/
  | auxBit
deriving DecidableEq, Repr

/-- Checks 1 and 2 of R95: the row that OP, and for OP 0x07 also D[0], selects. -/
def selectRow (w : Word) : Option Opcode :=
  match (fieldOP w).toNat with
  | 0x01 => some .start
  | 0x02 => some .stop
  | 0x03 => some .wbit
  | 0x04 => some .rbit
  | 0x05 => some .wbyte
  | 0x06 => some .rbyte
  | 0x07 => if fieldD0 w then some .xferR else some .xferW
  | 0x08 => some .recover
  | 0x09 => some .auxset
  | 0x0A => some .txwr
  | 0x0B => some .rxrd
  | _ => none

/-- The operands of a row (R91) and check 4 of R95, the row's extra condition (R92). -/
def buildRow (c : Config) (w : Word) : Opcode → Except Illegal Instr
  | .start => .ok .start
  | .stop => .ok .stop
  | .wbit => .ok (.wbit (fieldD0 w))
  | .rbit => .ok .rbit
  | .wbyte => .ok (.wbyte (fieldD w))
  | .rbyte => .ok (.rbyte (fieldD0 w))
  | .xferW => .ok (.xferW (fieldAddr w) (fieldN w))
  | .xferR => if fieldN w = 0 then .error .readLength else .ok (.xferR (fieldAddr w) (fieldN w))
  | .recover => .ok (.recover (fieldD0 w))
  | .auxset => if c.isI2c (fieldBit w) then .error .auxBit else .ok (.auxset (fieldBit w) (fieldD0 w))
  | .txwr => .ok (.txwr (fieldN w) (fieldD w))
  | .rxrd => .ok (.rxrd (fieldN w))

/-- The decoder (R94, R95): total, every word is one command or illegal by name; it reads the word and, for
AUXSET, SCL_BIT and SDA_BIT, and no register. -/
def decode (c : Config) (w : Word) : Except Illegal Instr :=
  match selectRow w with
  | none => .error .opcode
  | some r => if w &&& r.mask = r.pattern then buildRow c w r else .error .reserved

/-- The word with the four fields (R90). -/
def packWord (op n a d : Byte) : Word := op ++ n ++ a ++ d

/-- A one-bit operand in D[0] (R91). -/
def bitByte (b : Bool) : Byte := if b then 1 else 0

/-- The word of a command (R91): reserved fields and bits are 0. -/
def encode : Instr → Word
  | .start => packWord 0x01 0 0 0
  | .stop => packWord 0x02 0 0 0
  | .wbit b => packWord 0x03 0 0 (bitByte b)
  | .rbit => packWord 0x04 0 0 0
  | .wbyte byte => packWord 0x05 0 0 byte
  | .rbyte sendAck => packWord 0x06 0 0 (bitByte sendAck)
  | .xferW addr n => packWord 0x07 n (addr.setWidth 8) 0
  | .xferR addr n => packWord 0x07 n (addr.setWidth 8) 1
  | .recover force => packWord 0x08 0 0 (bitByte force)
  | .auxset bit value => packWord 0x09 0 (BitVec.ofNat 8 bit.val) (bitByte value)
  | .txwr idx byte => packWord 0x0A idx 0 byte
  | .rxrd idx => packWord 0x0B idx 0 0

/-- The row of a command. -/
def Instr.row : Instr → Opcode
  | .start => .start
  | .stop => .stop
  | .wbit _ => .wbit
  | .rbit => .rbit
  | .wbyte _ => .wbyte
  | .rbyte _ => .rbyte
  | .xferW _ _ => .xferW
  | .xferR _ _ => .xferR
  | .recover _ => .recover
  | .auxset _ _ => .auxset
  | .txwr _ _ => .txwr
  | .rxrd _ => .rxrd

/-- The instruction the decoder reads from a table row's word, for the example binding (log 2, log 19). A command
is one 32-bit word (R98), so `nbits` is at most 32; the bits above `nbits` are 0. -/
def decodeTableWord (nbits w : Nat) : Option Instr :=
  if nbits ≤ 32 then
    match decode Config.board (BitVec.ofNat 32 (w % 2 ^ nbits)) with
    | .ok i => some i
    | .error _ => none
  else none

end Sys2Proof
end

