-- ==== Sys2Proof/Machine/Ports.lean ====
section
/-! DEFINITION. What one step reads of the outside: the offered command word (10_state.md R40), and placing a word
there. -/

namespace Sys2Proof.Machine

/-- The busy engine's position names a primitive (R38). -/
def lost (s : State) : Bool := (nextLine s).isNone

/-- The command port in a step in which cmd_ready = 1 (R40): no word, an illegal word, or a command. -/
def offered (s : State) (p : HostPins) : Option (Except Illegal Instr) := p.cmd.map (decode s.cfg)

/-- A command's 32 bits from the table's numbering: a word has one format, bit 31 the most significant (R90, R98). -/
def tableWord (nbits w : Nat) : Word := BitVec.ofNat 32 (w % 2 ^ nbits)

/-- The state with a word offered on the command port in the next step, and the engine ready to accept it: idle,
no response waiting (log 6). -/
def offerNext (w : Word) (s : State) : State :=
  { s with
    fsm := .idle, phase := 0, cur := none, rsp := none
    world := { s.world with pins := ⟨false, some w, false⟩ :: s.world.pins } }

end Sys2Proof.Machine
end

