-- ==== Sys2Proof/Machine/Step.lean ====
section
/-! DEFINITION. One step of the machine: reset (70_reset_and_hazards.md R230), the command in progress, the response
port (10_state.md R41), the command port (R40). -/

namespace Sys2Proof.Machine

/-- One step. The host's pins of this step are read. In this order: a configuration that is none of this hardware's
is refused (R6, U8); rst_n = 0 resets (R230); a busy engine goes on with its command and the command port has no
effect (R40); a waiting response is held until rsp_ready (R41); an offered word is accepted, decoded and run, or
answered ILLEGAL_CMD (R40, R94, R206). -/
def step (s : State) : Host.Outcome State Fault Refusal :=
  let p := s.world.hostPins
  let s := takePins s
  if !s.cfg.legal then .refused .illegalConfig
  else if p.rst then .next (applyReset s)
  else if s.fsm ≠ .idle then
    if lost s then .fault .sequencerLost else runCommand s
  else
    match s.rsp with
    | some _ => .next (if p.rspReady then takeResponse s else s)
    | none =>
      match offered s p with
      | none => .next s
      | some (.error _) => .next (illegalCmd s)
      | some (.ok i) => exec i s

/-- The state in which the very next step accepts and runs the word of an opcode-table row (log 6). -/
def State.withFetchWord (s : State) (nbits w : Nat) : State := offerNext (tableWord nbits w) s

end Sys2Proof.Machine
end

