-- ==== Sys2Proof/Machine/HostLayer.lean ====
section
/-! DEFINITION. The host's programs over the commands (45_host_layers.md R180 to R190): open, read_register,
write_register, with_retry, set_auxiliary_output. They are not part of the engine (R180); each drives the pins of
the command and response ports of `step`. -/

namespace Sys2Proof.Machine

/-- The open parameters of the host layer (R6, R182): REG_CMD_PREFIX and REG_ADDR_MASK (log 17). -/
structure RegisterFormat where
  regCmdPrefix : Byte
  regAddrMask : Byte
deriving DecidableEq, Repr

/-- The Device Handle (R181): a fixed 7-bit slave address. -/
structure DeviceHandle where
  addr : BitVec 7
deriving DecidableEq, Repr

/-- What a host program returns: a value, an ordinary failure or a hard failure with the status code (R185, R213),
a refusal by the host layer before any command (D39), or no response from the engine (log 18). -/
inductive HostResult (α : Type) where
  | ok (a : α)
  | failure (st : Byte)
  | hardFailure (st : Byte)
  | rejected
  | noResponse
deriving DecidableEq, Repr

/-- The command byte (R182): `REG_CMD_PREFIX or (reg and REG_ADDR_MASK)`. -/
def cmdByte (f : RegisterFormat) (reg : Byte) : Byte := f.regCmdPrefix ||| (reg &&& f.regAddrMask)

/-- One step in which the host drives the pins itself. -/
def driveStep (p : HostPins) (s : State) : Host.Outcome State Fault Refusal :=
  step { s with world := { s.world with pins := [p] } }

/-- The host waits for rsp_valid with quiet pins, for at most the given number of steps, and takes the response
(R41). -/
def awaitResponse : Nat → State → Option (State × Word)
  | 0, _ => none
  | k + 1, s =>
    match s.rsp with
    | some r =>
      match driveStep ⟨false, none, true⟩ s with
      | .next t => some (t, r)
      | .fault _ => none
      | .refused _ => none
    | none =>
      match driveStep ⟨false, none, false⟩ s with
      | .next t => awaitResponse k t
      | .fault _ => none
      | .refused _ => none

/-- One blocking call (R8, R40, R41): the word is offered, the response awaited and taken. Every wait uses an entry
of the environment's list, so its length bounds the steps (log 18). -/
def issue (w : Word) (s : State) : Option (State × Word) :=
  match driveStep ⟨false, some w, false⟩ s with
  | .next t => awaitResponse (t.world.padAck.length + 2) t
  | .fault _ => none
  | .refused _ => none

/-- A call followed by the rest of a host program. -/
def andThen {α : Type} (w : Word) (s : State) (k : State → Word → State × HostResult α) : State × HostResult α :=
  match issue w s with
  | some (t, r) => k t r
  | none => (s, .noResponse)

/-- The status of a response is OK (R96, R97: the source's "success" is ST = OK). -/
def isOk (r : Word) : Bool := rspST r == Status.ok.code

/-- `[ (RXRD i).VAL for i = i0 .. ]` (R183). -/
def readBack : Nat → Nat → State → State × HostResult (List Byte)
  | 0, _, s => (s, .ok [])
  | k + 1, i, s =>
    andThen (encode (.rxrd (BitVec.ofNat 8 i))) s fun t r =>
      match readBack k (i + 1) t with
      | (u, .ok bs) => (u, .ok (rspVAL r :: bs))
      | (u, e) => (u, e)

/-- `TXWR i, data[i]` for the bytes from index i on (R184). -/
def loadBytes : List Byte → Nat → State → State × HostResult Unit
  | [], _, s => (s, .ok ())
  | b :: bs, i, s => andThen (encode (.txwr (BitVec.ofNat 8 i) b)) s fun t _ => loadBytes bs (i + 1) t

/-- read_register (R183): the write phase, then the read phase, then the bytes; a length outside 1 to 255 is refused
before any command (D39). -/
def readRegister (f : RegisterFormat) (dev : DeviceHandle) (reg : Byte) (length : Nat) (s : State) :
    State × HostResult (List Byte) :=
  if length = 0 ∨ 255 < length then (s, .rejected)
  else
    andThen (encode (.txwr 0 (cmdByte f reg))) s fun s1 _ =>
    andThen (encode (.xferW dev.addr 1)) s1 fun s2 r1 =>
      if isOk r1 then
        andThen (encode (.xferR dev.addr (BitVec.ofNat 8 length))) s2 fun s3 r2 =>
          if isOk r2 then readBack length 0 s3 else (s3, .failure (rspST r2))
      else (s2, .failure (rspST r1))

/-- write_register (R184): one write transfer of the command byte and the data; more than 254 data bytes are refused
before any command (D39). -/
def writeRegister (f : RegisterFormat) (dev : DeviceHandle) (reg : Byte) (data : List Byte) (s : State) :
    State × HostResult Unit :=
  if 254 < data.length then (s, .rejected)
  else
    match loadBytes (cmdByte f reg :: data) 0 s with
    | (s1, .ok _) =>
      andThen (encode (.xferW dev.addr (BitVec.ofNat 8 (1 + data.length)))) s1 fun s2 r =>
        if isOk r then (s2, .ok ()) else (s2, .failure (rspST r))
    | (s1, e) => (s1, e)

/-- A second BUS_TIMEOUT is a hard failure (R185). -/
def harden {α : Type} : HostResult α → HostResult α
  | .failure st => if st = Status.busTimeout.code then .hardFailure st else .failure st
  | .ok a => .ok a
  | .hardFailure st => .hardFailure st
  | .rejected => .rejected
  | .noResponse => .noResponse

/-- with_retry (R185): only BUS_TIMEOUT starts the recovery `RECOVER 1` and exactly one more attempt; a recovery
that is not OK is a hard failure. -/
def withRetry {α : Type} (operation : State → State × HostResult α) (s : State) : State × HostResult α :=
  match operation s with
  | (s1, .failure st) =>
    if st = Status.busTimeout.code then
      andThen (encode (.recover true)) s1 fun s2 c =>
        if isOk c then ((operation s2).1, harden (operation s2).2) else (s2, .hardFailure (rspST c))
    else (s1, .failure st)
  | (s1, .ok a) => (s1, .ok a)
  | (s1, .hardFailure st) => (s1, .hardFailure st)
  | (s1, .rejected) => (s1, .rejected)
  | (s1, .noResponse) => (s1, .noResponse)

/-- set_auxiliary_output (R187): the one command AUXSET; OK is success. -/
def setAuxiliaryOutput (bit : Fin 8) (value : Bool) (s : State) : State × HostResult Unit :=
  andThen (encode (.auxset bit value)) s fun t r => if isOk r then (t, .ok ()) else (t, .failure (rspST r))

/-- open (R186): it fails when the address is no 7-bit value (D39); otherwise reset is applied if the engine has not
been reset, and the handle is built. The argument bus_url is ignored (N32). -/
def openDevice (alreadyReset : Bool) (slaveAddress : Nat) (s : State) : State × Option DeviceHandle :=
  if slaveAddress < 128 then
    (if alreadyReset then s else applyReset s, some ⟨BitVec.ofNat 7 slaveAddress⟩)
  else (s, none)

end Sys2Proof.Machine
end

