-- ==== Sys2Proof/Machine/Wire.lean ====
section
/-! DEFINITION. Reading a trace: the full form of R11 and the bus symbols of R12 (00_scope.md). The symbol decoder
is the spec's tool for stating properties; the engine has no such circuit (R12, D33). -/

namespace Sys2Proof.Machine

/-- The full form of an event (R11): `Out(v)`, `Dir(d)`, `In(v)` or `FAULT`. -/
inductive FullEvent where
  | out (v : Byte) | dir (d : Byte) | inp (v : Byte) | fault
deriving DecidableEq, Repr

/-- The full form of an event (R11). -/
def Event.full : Event → FullEvent
  | .done (.scl _) v => .out v
  | .done (.sda _) v => .out v
  | .done (.auxOut _ _) v => .out v
  | .done (.oe _) v => .dir v
  | .done (.auxDir _) v => .dir v
  | .done .sample v => .inp v
  | .fault => .fault

/-- The bus symbols (R12): S, P, M0/M1, Z, Z0/Z1, Q0/Q1. -/
inductive Symbol where
  | S | P | M (b : Bool) | Z | Zs (b : Bool) | Q (b : Bool)
deriving DecidableEq, Repr

/-- What the symbol decoder holds: the line state and `pending` (R12). -/
structure WireView where
  scl : Bool
  sda : Bool
  sdaOe : Bool
  pending : Option Symbol
deriving DecidableEq, Repr

/-- The symbol a pending bit leaves when the clock falls. -/
def emitPending : Option Symbol → List Symbol
  | some x => [x]
  | none => []

/-- One event of the decoder of R12: the symbols it emits and the view after it. -/
def readEvent (c : Config) (w : WireView) : Event → List Symbol × WireView
  | .done (.scl true) _ =>
    ([], { w with scl := true,
                  pending := if w.scl then w.pending else some (if w.sdaOe then .M w.sda else .Z) })
  | .done (.scl false) _ =>
    if w.scl then (emitPending w.pending, { w with scl := false, pending := none })
    else ([], w)
  | .done (.sda b) _ =>
    if w.scl && w.sdaOe && w.sda != b then ([if b then .P else .S], { w with sda := b, pending := none })
    else ([], { w with sda := b })
  | .done (.oe b) _ => ([], { w with sdaOe := b })
  | .done .sample v =>
    if w.pending = some .Z then ([], { w with pending := some (.Zs (testBit v c.sdaBit)) })
    else ([.Q (testBit v c.sdaBit)], w)
  | .done (.auxOut _ _) _ => ([], w)
  | .done (.auxDir _) _ => ([], w)
  | .fault => ([], w)

/-- The symbols of a trace read from a view; at the end of the trace `pending` is dropped (R12). -/
def readWire (c : Config) : WireView → List Event → List Symbol
  | _, [] => []
  | w, e :: es => (readEvent c w e).1 ++ readWire c (readEvent c w e).2 es

/-- The symbols of a trace that starts in a line state (SCL, SDA, SDA_OE), with nothing pending (R12). -/
def symbols (c : Config) (line : Bool × Bool × Bool) (es : List Event) : List Symbol :=
  readWire c ⟨line.1, line.2.1, line.2.2, none⟩ es

/-- The line step of an event; a FAULT names none. -/
def Event.line : Event → Option Line
  | .done l _ => some l
  | .fault => none

/-- The events of a command that ran from s to t. -/
def eventsBetween (s t : State) : List Event := t.trace.drop s.trace.length

/-- The compact form of a command's trace (R11) without the sampled values: its line steps in order, `none` for
FAULT. -/
def linesBetween (s t : State) : List (Option Line) := (eventsBetween s t).map Event.line

end Sys2Proof.Machine
end

