-- ==== Sys2Proof/Safety.lean ====
section
/-! DEFINITION. The terms in which claims are made: the inputs to come, a ready engine, the length of a command, the
invariant of the machine. -/

namespace Sys2Proof

/-! ### Commands -/

/-- Every command but AUXSET (C12: the invariant of R24 binds these). -/
def Instr.isAuxset : Instr → Bool
  | .auxset _ _ => true
  | _ => false

/-- The most primitives a command performs (R148, R160, R244). -/
def Instr.maxPrims : Instr → Nat
  | .start => 5
  | .stop => 6
  | .wbit _ => 4
  | .rbit => 4
  | .wbyte _ => 36
  | .rbyte _ => 36
  | .xferW _ n => 47 + 36 * n.toNat
  | .xferR _ n => 47 + 36 * n.toNat
  | .recover _ => 8 + 3 * Config.recoverMaxPulses
  | .auxset _ _ => 2
  | .txwr _ _ => 0
  | .rxrd _ => 0

/-- The commands that run in state SINGLE with at least one primitive (R32). -/
def Instr.isSingle : Instr → Bool
  | .start => true
  | .stop => true
  | .wbit _ => true
  | .rbit => true
  | .wbyte _ => true
  | .rbyte _ => true
  | .xferW _ _ => false
  | .xferR _ _ => false
  | .recover _ => false
  | .auxset _ _ => true
  | .txwr _ _ => false
  | .rxrd _ => false

end Sys2Proof

namespace Sys2Proof.Machine

/-! ### The inputs to come -/

namespace World

/-- The environment's answer to the k-th primitive from here (k = 0: the next one). -/
def ackAt : World → Nat → PadAck
  | w, 0 => w.ack
  | w, k + 1 => ackAt w.dropAck k

/-- The value of PORT_IN for the k-th completed PadRead from here. -/
def inAt : World → Nat → Byte
  | w, 0 => w.portIn
  | w, k + 1 => inAt w.dropIn k

/-- The next n primitives are all answered done (R42). -/
def AllDone (w : World) (n : Nat) : Prop := ∀ k, k < n → w.ackAt k = .done

/-- None of the next n primitives waits; each is done or faults. -/
def NoWait (w : World) (n : Nat) : Prop := ∀ k, k < n → w.ackAt k ≠ .wait

/-- The k-th sample from here: bit SDA_BIT of the k-th PORT_IN value (R22, R34). -/
def sampleAt (w : World) (c : Config) (k : Nat) : Bool := testBit (w.inAt k) c.sdaBit

/-- The byte of the eight samples from the k-th on, the first in bit 7 (R134: {s1, s2, ..., s8}). -/
def byteAt (w : World) (c : Config) (k : Nat) : Byte :=
  BitVec.ofBool (w.sampleAt c k) ++ BitVec.ofBool (w.sampleAt c (k + 1)) ++ BitVec.ofBool (w.sampleAt c (k + 2)) ++
  BitVec.ofBool (w.sampleAt c (k + 3)) ++ BitVec.ofBool (w.sampleAt c (k + 4)) ++
  BitVec.ofBool (w.sampleAt c (k + 5)) ++ BitVec.ofBool (w.sampleAt c (k + 6)) ++ BitVec.ofBool (w.sampleAt c (k + 7))

end World

/-! ### The line steps of the pseudocode, written out a second time from R121 to R131 and R140 -/

/-- START (R121). -/
def startLines : List Line := [.sda true, .oe true, .scl true, .sda false, .scl false]

/-- STOP (R122). -/
def stopLines : List Line := [.scl false, .sda false, .oe true, .scl true, .sda true, .oe false]

/-- WBIT b (R123). -/
def sendBit (b : Bool) : List Line := [.sda b, .oe true, .scl true, .scl false]

/-- RBIT (R124). -/
def recvBit : List Line := [.oe false, .scl true, .sample, .scl false]

/-- The bits of a byte in wire order: v[7], v[6], ..., v[0] (R61, R133). -/
def bitsOf (v : Byte) : List Bool :=
  [testBit v 7, testBit v 6, testBit v 5, testBit v 4, testBit v 3, testBit v 2, testBit v 1, testBit v 0]

/-- Eight bits sent, most significant first (R130, R133). -/
def sendByte (v : Byte) : List Line := (bitsOf v).flatMap sendBit

/-- Eight bits received (R131). -/
def recvByte : List Line := (List.replicate 8 recvBit).flatten

/-- One recovery pulse: low, high, then the sample (R160, R162). -/
def pulseLines : List Line := [.scl false, .scl true, .sample]

/-- The bytes TXBUF[0..n-1] (R62, R141). -/
def payload (s : State) (n : Nat) : List Byte := (List.range n).map fun k => readTx s (BitVec.ofNat 8 k)

/-- The line steps of an address phase (R140): START, the address byte, the acknowledge. -/
def addressLines (a : Byte) : List Line := startLines ++ sendByte a ++ recvBit

/-- The line steps of sent payload bytes, each with its acknowledge (R141). -/
def sendBytes (bs : List Byte) : List Line := bs.flatMap fun b => sendByte b ++ recvBit

/-- The line steps of n received bytes, each with the master's answer: 0 on all but the final byte, 1 on the final
byte (R142, R144). -/
def recvBytes (n : Nat) : List Line :=
  (List.range n).flatMap fun k => recvByte ++ sendBit (k + 1 == n)

/-! ### States -/

/-- The engine can accept a command (R40) and its configuration is one of this hardware's (R6). -/
structure State.Ready (s : State) : Prop where
  legal : s.cfg.legal = true
  idle : s.fsm = .idle
  noResponse : s.rsp = none

/-- The line state is the idle line state (R23). -/
def State.atIdleLine (s : State) : Prop := s.lineState = idleLine

/-- The six auxiliary bits of two port bytes agree (R24). -/
def auxSame (c : Config) (v w : Byte) : Prop :=
  ∀ i : Fin 8, c.isI2c i = false → testBit v i = testBit w i

/-- The latches of a transfer agree with the command in progress (R31, R93, R146). -/
def State.transferLatched (s : State) : Prop :=
  match s.cur with
  | some (.xferW addr n) => s.rw = false ∧ s.len = n ∧ s.addrb.toNat = 2 * addr.toNat
  | some (.xferR addr n) => s.rw = true ∧ s.len = n ∧ s.addrb.toNat = 2 * addr.toNat + 1 ∧ n ≠ 0
  | _ => False

/-- FSM, the command in progress, the latches and the counters fit together (R28 to R32, R146, R161). -/
def State.positionOk (s : State) : Prop :=
  match s.fsm with
  | .idle => s.cur = none ∧ s.phase = 0
  | .start => s.transferLatched ∧ s.bytecnt = 0
  | .address => s.transferLatched ∧ s.bytecnt = 0 ∧ s.bitcnt ≠ 0
  | .ackAddr => s.transferLatched ∧ s.bytecnt = 0
  | .dataPhase => s.transferLatched ∧ s.bytecnt < s.len ∧ s.bitcnt ≠ 0
  | .ackData => s.transferLatched ∧ s.bytecnt < s.len
  | .stop => (s.transferLatched ∧ s.bytecnt ≤ s.len) ∨ ∃ f, s.cur = some (.recover f)
  | .recSample => s.pulsecnt = 0 ∧ s.cur = some (.recover s.force)
  | .recPulse =>
    s.cur = some (.recover s.force) ∧ (s.phase ≤ 1 → s.pulsecnt.toNat < Config.recoverMaxPulses) ∧ (s.phase = 2 → s.pulsecnt ≠ 0)
  | .single => ∃ i, s.cur = some i ∧ i.isSingle = true

/-- A word selects a row of the opcode map: `w and mask = match`, and the row's extra condition (R92). -/
def rowSelects (c : Config) (w : Word) (r : Opcode) : Prop :=
  w &&& r.mask = r.pattern ∧ (r = .xferR → fieldN w ≠ 0) ∧
    (r = .auxset → fieldBit w ≠ c.sclBit ∧ fieldBit w ≠ c.sdaBit)

/-- What a command that performs a fixed list of primitives does (R120, R204): with every primitive done it performs
exactly these line steps in order and ends as P says; if the k-th is the first answered and it faults, exactly the
ones before it are performed, no STOP follows, and the response is {BUS_TIMEOUT, 0, 0, 0}. -/
def PerformsLines (i : Instr) (L : List Line) (s : State) (P : State → Prop) : Prop :=
  (s.world.AllDone L.length → ∃ t, exec i s = .next t ∧ linesBetween s t = L.map some ∧ t.fsm = .idle ∧ P t) ∧
  ∀ k, k < L.length → s.world.AllDone k → s.world.ackAt k = .fault →
    ∃ t, exec i s = .next t ∧ linesBetween s t = (L.take k).map some ++ [none] ∧ t.fsm = .idle ∧
      t.rsp = some 0x03000000 ∧ t.err = 0x03

/-- The values R47 states for reset. The buffers hold no value (U4). -/
structure State.AtResetValues (s : State) : Prop where
  line : s.lineState = (true, true, false)
  clockDriven : s.sclOe = true
  auxOut : ∀ i, s.cfg.isI2c i = false → testBit s.portOut i = false
  auxDir : ∀ i, s.cfg.isI2c i = false → testBit s.portDir i = false
  shreg : s.shreg = 0
  bitcnt : s.bitcnt = 0
  bytecnt : s.bytecnt = 0
  pulsecnt : s.pulsecnt = 0
  addrb : s.addrb = 0
  rw : s.rw = false
  len : s.len = 0
  force : s.force = false
  ackf : s.ackf = false
  sbit : s.sbit = false
  err : s.err = 0x00
  fsm : s.fsm = .idle
  cmdReady : s.cmdReady = true
  rspValid : s.rspValid = false
  txbuf : ∀ i, s.txbuf.read i = none
  rxbuf : ∀ i, s.rxbuf.read i = none

/-! ### Single-step programs (R149) -/

/-- A command run to its response, which is taken. -/
def call (i : Instr) (s : State) : Option (State × Word) :=
  match exec i s with
  | .next t => t.rsp.map fun r => (takeResponse t, r)
  | .fault _ => none
  | .refused _ => none

/-- WBYTE after WBYTE, cut after the first whose VAL[0] is 0 (R149). -/
def callBytes : List Byte → State → Option State
  | [], s => some s
  | b :: bs, s =>
    match call (.wbyte b) s with
    | some (t, r) => if rspVAL r = 1 then callBytes bs t else some t
    | none => none

/-- RBYTE after RBYTE with the given answers. -/
def callReads : List Bool → State → Option State
  | [], s => some s
  | a :: as, s =>
    match call (.rbyte a) s with
    | some (t, _) => callReads as t
    | none => none

/-- START, then a program, then STOP. -/
def bracket (p : State → Option State) (s : State) : Option State :=
  match call .start s with
  | some (t, _) =>
    match p t with
    | some u => (call .stop u).map Prod.fst
    | none => none
  | none => none

/-- `START`, `WBYTE {addr, 0}`, `WBYTE TXBUF[0]`, ..., `STOP` (R149). -/
def writeBySingles (addr : BitVec 7) (n : Byte) (s : State) : Option State :=
  bracket (callBytes (addressByte addr false :: payload s n.toNat)) s

/-- `START`, `WBYTE {addr, 1}`, `RBYTE 1` (n-1 times), `RBYTE 0`, `STOP` (R149). -/
def readBySingles (addr : BitVec 7) (n : Byte) (s : State) : Option State :=
  bracket (fun t =>
    match callBytes [addressByte addr true] t with
    | some u => callReads (List.replicate (n.toNat - 1) true ++ [false]) u
    | none => none) s

/-! ### Samples and the released line (R74) -/

/-- Every sample of a trace is taken with the data line released, from a direction of the data line on. -/
def samplesReleased : Bool → List Event → Bool
  | _, [] => true
  | _, .done (.oe b) _ :: es => samplesReleased b es
  | o, .done .sample _ :: es => !o && samplesReleased o es
  | o, .done (.scl _) _ :: es => samplesReleased o es
  | o, .done (.sda _) _ :: es => samplesReleased o es
  | o, .done (.auxOut _ _) _ :: es => samplesReleased o es
  | o, .done (.auxDir _) _ :: es => samplesReleased o es
  | o, .fault :: es => samplesReleased o es

/-- The codes the engine produces (R96): 0x05 and 0x06 to 0xFE never. -/
def producedCode (b : Byte) : Prop :=
  b = 0x00 ∨ b = 0x01 ∨ b = 0x02 ∨ b = 0x03 ∨ b = 0x04 ∨ b = 0xFF

/-- The invariant of the machine. -/
structure State.Inv (s : State) : Prop where
  /-- R6: SCL_BIT and SDA_BIT differ. -/
  legal : s.cfg.legal = true
  /-- R25: SCL_OE is 1. -/
  clockDriven : s.sclOe = true
  /-- TXBUF is in its canonical form, indices below 256 (R60). -/
  txWf : s.txbuf.wf = true
  /-- RXBUF is in its canonical form, indices below 256 (R60). -/
  rxWf : s.rxbuf.wf = true
  /-- R28: BITCNT is 0 to 8. -/
  bitcntRange : s.bitcnt.toNat ≤ 8
  /-- R30: PULSECNT is 0 to RECOVER_MAX_PULSES. -/
  pulsecntRange : s.pulsecnt.toNat ≤ Config.recoverMaxPulses
  /-- R38: a busy position names a primitive. -/
  phaseRange : s.fsm ≠ .idle → s.phase < (currentSeq s).length
  /-- FSM, command, latches and counters fit together. -/
  position : s.positionOk
  /-- R146, R161: the statuses a STOP state reports. -/
  stopStatusRange : s.stopStatus = .ok ∨ s.stopStatus = .addressNacked ∨ s.stopStatus = .dataNacked ∨
    s.stopStatus = .busStuck
  /-- R41: no response waits while a command runs. -/
  oneAtATime : s.fsm ≠ .idle → s.rsp = none
  /-- R35: ERR is a code the engine produces. -/
  errCode : producedCode s.err
  /-- R35, R96: a waiting response carries ERR as its status and zeros in bits 15:8. -/
  rspForm : ∀ r, s.rsp = some r → rspST r = s.err ∧ r.extractLsb' 8 8 = 0#8

/-- The next state of an outcome, for tests. -/
def nextState : Host.Outcome State Fault Refusal → Option State
  | .next s => some s
  | .fault _ => none
  | .refused _ => none

end Sys2Proof.Machine
end

