-- ==== Sys2Proof/Certificates/Slice0/Obligations.lean ====
section
/-! DEFINITION. The statements for the provers. Rule numbers are those of spec/; every statement holds for every
configuration, every state named by its hypotheses and every choice of the environment. -/

open Sys2Proof Sys2Proof.Machine

/-! ### Encoding -/

/-- R90 to R94: decoding the word of a well-formed command gives the command back, every operand at every value. -/
def Obligations.DecodeOfEncodeIsTheCommand : Prop :=
  ∀ (c : Config) (i : Instr), i.wf c = true → decode c (encode i) = .ok i

/-- R91, R94, R98: a word that decodes is the encoding of its command, with every reserved bit 0, and the command is
well-formed. -/
def Obligations.EncodeOfDecodeIsTheWord : Prop :=
  ∀ (c : Config) (w : Word) (i : Instr), decode c w = .ok i → encode i = w ∧ i.wf c = true

/-- R92: the opcode map, row by row; OP 0x00 and OP 0x0C to 0xFF select nothing; no two rows match one word; and a word
decodes to a command of a row exactly when it selects that row (match, mask and extra condition). -/
def Obligations.OpcodeMapSelectsExactlyOneRow : Prop :=
  (Opcode.all.map fun r => (r.pattern, r.mask)) =
    [(0x01000000, 0xFFFFFFFF), (0x02000000, 0xFFFFFFFF), (0x03000000, 0xFFFFFFFE), (0x04000000, 0xFFFFFFFF),
      (0x05000000, 0xFFFFFF00), (0x06000000, 0xFFFFFFFE), (0x07000000, 0xFF0080FF), (0x07000001, 0xFF0080FF),
      (0x08000000, 0xFFFFFFFE), (0x09000000, 0xFFFFF8FE), (0x0A000000, 0xFF00FF00), (0x0B000000, 0xFF00FFFF)] ∧
  ∀ (c : Config) (w : Word),
    ((fieldOP w = 0x00 ∨ 0x0C ≤ (fieldOP w).toNat) → ∀ r, ¬ rowSelects c w r) ∧
    (∀ r q : Opcode, w &&& r.mask = r.pattern → w &&& q.mask = q.pattern → r = q) ∧
    ∀ r : Opcode, (∃ i, decode c w = .ok i ∧ i.row = r) ↔ rowSelects c w r

/-- R95: the order of the decoder's checks. An OP outside 0x01 to 0x0B is the first verdict; then OP, and for OP 0x07
D[0], choose the row; a reserved bit that is not 0 is the second verdict; the row's extra condition the third; a word
that passes all is a command of the row. -/
def Obligations.DecoderChecksInOrder : Prop :=
  ∀ (c : Config) (w : Word),
    (fieldOP w = 0x00 ∨ 0x0B < (fieldOP w).toNat → decode c w = .error .opcode) ∧
    (1 ≤ (fieldOP w).toNat → (fieldOP w).toNat ≤ 0x0B →
      ∃ r : Opcode, fieldOP r.pattern = fieldOP w ∧ (fieldOP w = 0x07 → (r = .xferR ↔ fieldD0 w = true)) ∧
        (w &&& r.mask ≠ r.pattern → decode c w = .error .reserved) ∧
        (w &&& r.mask = r.pattern →
          (r = .xferR ∧ fieldN w = 0 → decode c w = .error .readLength) ∧
          (r = .auxset ∧ c.isI2c (fieldBit w) = true → decode c w = .error .auxBit) ∧
          (¬ (r = .xferR ∧ fieldN w = 0) → ¬ (r = .auxset ∧ c.isI2c (fieldBit w) = true) →
            ∃ i, decode c w = .ok i ∧ i.row = r)))

/-- R93, R61: the address byte is 2 x address + is_read; on the wire the address goes first, bit 6 first, then the
read/write bit; 0x29 gives 0x52 and 0x53. That the bit is 1 for a read is the spec's from general knowledge (log 13). -/
def Obligations.AddressByteIsAddressThenReadBit : Prop :=
  (∀ (a : BitVec 7) (rd : Bool),
    (addressByte a rd).toNat = 2 * a.toNat + (if rd then 1 else 0) ∧
    bitsOf (addressByte a rd) =
      [a.getLsbD 6, a.getLsbD 5, a.getLsbD 4, a.getLsbD 3, a.getLsbD 2, a.getLsbD 1, a.getLsbD 0, rd]) ∧
  addressByte 0x29 false = 0x52 ∧ addressByte 0x29 true = 0x53

/-- R101: the worked encodings, AUXSET 4 where bit 4 is auxiliary, and the four illegal words. -/
def Obligations.WorkedEncodingsDecode : Prop :=
  ∀ c : Config, c.isI2c 4 = false →
    decode c 0x01000000 = .ok .start ∧ decode c 0x02000000 = .ok .stop ∧
    decode c 0x03000001 = .ok (.wbit true) ∧ decode c 0x04000000 = .ok .rbit ∧
    decode c 0x05000092 = .ok (.wbyte 0x92) ∧ decode c 0x06000000 = .ok (.rbyte false) ∧
    decode c 0x07012900 = .ok (.xferW 0x29 1) ∧ decode c 0x07012901 = .ok (.xferR 0x29 1) ∧
    decode c 0x08000001 = .ok (.recover true) ∧ decode c 0x09000401 = .ok (.auxset 4 true) ∧
    decode c 0x0A000092 = .ok (.txwr 0 0x92) ∧ decode c 0x0B000000 = .ok (.rxrd 0) ∧
    decode c 0x00000000 = .error .opcode ∧ decode c 0x07002901 = .error .readLength ∧
    decode c 0x0701A900 = .error .reserved ∧ decode c 0x03000002 = .error .reserved

/-! ### The step: command port, response port, reset -/

/-- A step runs the decoded command: an idle engine with no response waiting, offered a word that decodes to i
(rst_n = 1), does exactly what `exec i` does once the pins of this step are read. -/
def Obligations.StepRunsTheOfferedCommand : Prop :=
  ∀ (s : State) (w : Word) (ready : Bool) (rest : List HostPins) (i : Instr),
    s.Ready → s.world.pins = ⟨false, some w, ready⟩ :: rest → decode s.cfg w = .ok i →
    step s = exec i { s with world := { s.world with pins := rest } }

/-- R94, R206: a word that selects no row is answered {ILLEGAL_CMD, 0, 0, 0}; no primitive is performed and nothing
but ERR and the response changes. -/
def Obligations.IllegalWordChangesOnlyErr : Prop :=
  ∀ (s : State) (w : Word) (ready : Bool) (rest : List HostPins),
    s.Ready → s.world.pins = ⟨false, some w, ready⟩ :: rest → (∀ r, ¬ rowSelects s.cfg w r) →
    step s = .next { s with err := 0xFF, rsp := some 0xFF000000, world := { s.world with pins := rest } }

/-- R36: while FSM is not IDLE or a response waits, an offered word has no effect; otherwise it is accepted, and
answered by a response or by a command in progress. -/
def Obligations.CommandsAreAcceptedOnlyWhileNotBusy : Prop :=
  ∀ (s : State) (w : Word) (ready : Bool) (rest : List HostPins), s.cfg.legal = true →
    (s.fsm ≠ .idle ∨ s.rsp ≠ none →
      step { s with world := { s.world with pins := ⟨false, some w, ready⟩ :: rest } } =
      step { s with world := { s.world with pins := ⟨false, none, ready⟩ :: rest } }) ∧
    (s.fsm = .idle → s.rsp = none →
      ∃ t, step { s with world := { s.world with pins := ⟨false, some w, ready⟩ :: rest } } = .next t ∧
        (t.fsm ≠ .idle ∨ t.rsp ≠ none))

/-- R41: a waiting response is held, with everything else, until a step with rsp_ready; that step takes it; a word
offered in either step is not accepted. -/
def Obligations.ResponseIsHeldUntilTaken : Prop :=
  ∀ (s : State) (r : Word) (cmd : Option Word) (ready : Bool) (rest : List HostPins),
    s.cfg.legal = true → s.fsm = .idle → s.rsp = some r → s.world.pins = ⟨false, cmd, ready⟩ :: rest →
    step s = .next { s with
      rsp := if ready then none else some r
      world := { s.world with pins := rest } }

/-- R47, R230: reset puts every register at its stated value from any state, abandons a command in progress and
drops a waiting response, and adds no event; the state after reset has the same values. -/
def Obligations.ResetPutsEveryRegisterAtItsValue : Prop :=
  (∀ c : Config, c.legal = true → (State.resetWith c).AtResetValues) ∧
  ∀ s : State, s.cfg.legal = true → s.world.hostPins.rst = true →
    ∃ t, step s = .next t ∧ t.AtResetValues ∧ t.trace = s.trace ∧ t.cfg = s.cfg

/-! ### Primitives -/

/-- R67, R68: what each completed primitive writes. PadWrite writes PORT_OUT (the clock bit, the data bit), PadDir
writes PORT_DIR (the data direction), PadRead writes SBIT from bit SDA_BIT of the environment's value; each adds its
one event, the whole register value after it, and leaves the other two registers alone. -/
def Obligations.DonePrimitiveWritesItsRegister : Prop :=
  ∀ (s : State) (b : Bool),
    ((∀ j, testBit (perform (.scl b) s).portOut j = if j = s.cfg.sclBit then b else testBit s.portOut j) ∧
      (perform (.scl b) s).trace = s.trace ++ [.done (.scl b) (perform (.scl b) s).portOut] ∧
      (perform (.scl b) s).portDir = s.portDir ∧ (perform (.scl b) s).sbit = s.sbit) ∧
    ((∀ j, testBit (perform (.sda b) s).portOut j = if j = s.cfg.sdaBit then b else testBit s.portOut j) ∧
      (perform (.sda b) s).trace = s.trace ++ [.done (.sda b) (perform (.sda b) s).portOut] ∧
      (perform (.sda b) s).portDir = s.portDir ∧ (perform (.sda b) s).sbit = s.sbit) ∧
    ((∀ j, testBit (perform (.oe b) s).portDir j = if j = s.cfg.sdaBit then b else testBit s.portDir j) ∧
      (perform (.oe b) s).trace = s.trace ++ [.done (.oe b) (perform (.oe b) s).portDir] ∧
      (perform (.oe b) s).portOut = s.portOut ∧ (perform (.oe b) s).sbit = s.sbit) ∧
    ((perform .sample s).sbit = testBit s.world.portIn s.cfg.sdaBit ∧
      (perform .sample s).trace = s.trace ++ [.done .sample s.world.portIn] ∧
      (perform .sample s).portOut = s.portOut ∧ (perform .sample s).portDir = s.portDir)

/-- R204: a faulted primitive writes no register, no further primitive of the command is performed, and the response
is {BUS_TIMEOUT, CNT, 0, 0} with CNT = BYTECNT for XFER, PULSECNT for RECOVER, 0 otherwise. -/
def Obligations.FaultedPrimitiveEndsTheCommandAtOnce : Prop :=
  ∀ (s : State) (l : Line), nextLine s = some l → s.world.ack = .fault →
    let t := primStep s
    t.portOut = s.portOut ∧ t.portDir = s.portDir ∧ t.sbit = s.sbit ∧ t.ackf = s.ackf ∧ t.shreg = s.shreg ∧
    t.bitcnt = s.bitcnt ∧ t.bytecnt = s.bytecnt ∧ t.pulsecnt = s.pulsecnt ∧ t.txbuf = s.txbuf ∧ t.rxbuf = s.rxbuf ∧
    t.addrb = s.addrb ∧ t.rw = s.rw ∧ t.len = s.len ∧ t.force = s.force ∧
    t.trace = s.trace ++ [.fault] ∧ t.fsm = .idle ∧ t.err = 0x03 ∧
    t.rsp = some (packWord 0x03
      (match s.cur with
        | some (.xferW _ _) => s.bytecnt
        | some (.xferR _ _) => s.bytecnt
        | some (.recover _) => s.pulsecnt.setWidth 8
        | _ => 0) 0 0)

/-- R26: a completed primitive of a bus command changes at most one of SCL, SDA, SDA_OE. -/
def Obligations.OnePrimitiveMovesAtMostOneLine : Prop :=
  ∀ (s : State) (l : Line), s.cfg.legal = true → nextLine s = some l → s.world.ack = .done →
    (∀ i b, l ≠ .auxOut i b) → (∀ i, l ≠ .auxDir i) →
    let t := primStep s
    (t.scl = s.scl ∧ t.sda = s.sda) ∨ (t.scl = s.scl ∧ t.sdaOe = s.sdaOe) ∨ (t.sda = s.sda ∧ t.sdaOe = s.sdaOe)

/-! ### Line commands -/

/-- R121: START performs its five line steps, or stops at a fault; the line state after is (0, 0, 1); no flag is
written. On the wire it is exactly one start condition, preceded by a stop condition when the line state was
(1, 0, 1). -/
def Obligations.StartMakesTheStartCondition : Prop :=
  ∀ s : State, s.Ready →
    PerformsLines .start [.sda true, .oe true, .scl true, .sda false, .scl false] s fun t =>
      t.lineState = (false, false, true) ∧ t.rsp = some 0x00000000 ∧ t.err = 0x00 ∧ t.ackf = s.ackf ∧ t.sbit = s.sbit ∧
      symbols s.cfg s.lineState (eventsBetween s t) =
        if s.lineState = (true, false, true) then [.P, .S] else [.S]

/-- R122: STOP performs its six line steps, or stops at a fault; the line state after is the idle line state; no flag
is written; the one bus symbol is P, from every line state. -/
def Obligations.StopMakesTheStopCondition : Prop :=
  ∀ s : State, s.Ready →
    PerformsLines .stop [.scl false, .sda false, .oe true, .scl true, .sda true, .oe false] s fun t =>
      t.lineState = (true, true, false) ∧ t.rsp = some 0x00000000 ∧ t.err = 0x00 ∧ t.ackf = s.ackf ∧ t.sbit = s.sbit ∧
      symbols s.cfg s.lineState (eventsBetween s t) = [.P]

/-- R123: WBIT b performs its four line steps, or stops at a fault; the line state after is (0, b, 1); no flag is
written. With SCL = 0 on entry the bus symbol is the bit; with SCL = 1 a driven data line that changes makes a start
or a stop condition, and no bit is sent. -/
def Obligations.WbitSendsOneBit : Prop :=
  ∀ (s : State) (b : Bool), s.Ready →
    PerformsLines (.wbit b) [.sda b, .oe true, .scl true, .scl false] s fun t =>
      t.lineState = (false, b, true) ∧ t.rsp = some 0x00000000 ∧ t.err = 0x00 ∧ t.ackf = s.ackf ∧ t.sbit = s.sbit ∧
      symbols s.cfg s.lineState (eventsBetween s t) =
        if s.scl = false then [.M b]
        else if s.sdaOe = true ∧ s.sda ≠ b then [if b then .P else .S] else []

/-- R124: RBIT performs its four line steps, or stops at a fault; SBIT and VAL[0] are the sample, ACKF is not
written, the latch keeps SDA, the line state after is (0, SDA, 0). With SCL = 0 on entry the bus symbol is the
sampled bit, with SCL = 1 a sample outside any clock pulse. -/
def Obligations.RbitReturnsTheSample : Prop :=
  ∀ s : State, s.Ready →
    PerformsLines .rbit [.oe false, .scl true, .sample, .scl false] s fun t =>
      t.lineState = (false, s.sda, false) ∧ t.sbit = s.world.sampleAt s.cfg 0 ∧ t.ackf = s.ackf ∧
      t.rsp = some (if s.world.sampleAt s.cfg 0 then 0x00000001 else 0x00000000) ∧ t.err = 0x00 ∧
      symbols s.cfg s.lineState (eventsBetween s t) =
        [if s.scl then .Q (s.world.sampleAt s.cfg 0) else .Zs (s.world.sampleAt s.cfg 0)]

/-! ### Byte commands -/

/-- R130, R132, R133: WBYTE sends the eight bits most significant first, then samples the acknowledge; ACKF is the
inverted sample and VAL[0] = ACKF; SHREG ends 0x00; the line state after is (0, byte[0], 0); a fault stops it, and
one before the sample or at it leaves ACKF and SBIT as they were. From SCL = 0 the bus symbols are the eight bits and
the sampled ninth. -/
def Obligations.WbyteSendsTheByteAndDetectsTheAck : Prop :=
  ∀ (s : State) (v : Byte), s.Ready →
    (PerformsLines (.wbyte v) (sendByte v ++ recvBit) s fun t =>
      t.lineState = (false, testBit v 0, false) ∧ t.sbit = s.world.sampleAt s.cfg 0 ∧
      t.ackf = !(s.world.sampleAt s.cfg 0) ∧ t.shreg = 0x00 ∧ t.err = 0x00 ∧
      t.rsp = some (if s.world.sampleAt s.cfg 0 then 0x00000000 else 0x00000001) ∧
      (s.scl = false → symbols s.cfg s.lineState (eventsBetween s t) =
        (bitsOf v).map .M ++ [.Zs (s.world.sampleAt s.cfg 0)])) ∧
    ∀ k, k < 35 → s.world.AllDone k → s.world.ackAt k = .fault →
      ∃ t, exec (.wbyte v) s = .next t ∧ t.ackf = s.ackf ∧ t.sbit = s.sbit

/-- R131, R134: RBYTE receives eight bits most significant first, then drives its answer, 0 for ACK and 1 for NACK;
VAL and SHREG are the byte; ACKF is not written; the line state after is (0, not send_ack, 1); a fault stops it, and
leaves SHREG holding the bits of the k completed RBITs in its low places (log 9 names the one place, the clock fall
after a sample, where the model follows the pseudocode's order; this statement leaves that place out). From SCL = 0
the bus symbols are the eight sampled bits and the master's answer. -/
def Obligations.RbyteReturnsTheSampledByte : Prop :=
  ∀ (s : State) (a : Bool), s.Ready →
    (PerformsLines (.rbyte a) (recvByte ++ sendBit (!a)) s fun t =>
      t.lineState = (false, !a, true) ∧ t.shreg = s.world.byteAt s.cfg 0 ∧ t.sbit = s.world.sampleAt s.cfg 7 ∧
      t.ackf = s.ackf ∧ t.err = 0x00 ∧ t.rsp = some (packWord 0x00 0 0 (s.world.byteAt s.cfg 0)) ∧
      (s.scl = false → symbols s.cfg s.lineState (eventsBetween s t) =
        (bitsOf (s.world.byteAt s.cfg 0)).map .Zs ++ [.M (!a)])) ∧
    ∀ k, k < 36 → (k % 4 = 3 → k = 35) → s.world.AllDone k → s.world.ackAt k = .fault →
      ∃ t, exec (.rbyte a) s = .next t ∧ t.shreg = s.world.byteAt s.cfg 0 >>> (8 - k / 4) ∧ t.ackf = s.ackf

/-! ### Transfers -/

/-- R141: XFER.W with every byte acknowledged sends the address byte with is_read = 0 and TXBUF[0..n-1], and ends
{OK, n, 0, 0} in the idle line state; n = 0 is the address-only transaction. -/
def Obligations.WriteTransferSendsTheBuffer : Prop :=
  ∀ (s : State) (addr : BitVec 7) (n : Byte), s.Ready → s.world.AllDone (47 + 36 * n.toNat) →
    (∀ k, k ≤ n.toNat → s.world.sampleAt s.cfg k = false) →
    ∃ t, exec (.xferW addr n) s = .next t ∧
      linesBetween s t =
        (addressLines (addressByte addr false) ++ sendBytes (payload s n.toNat) ++ stopLines).map some ∧
      t.fsm = .idle ∧ t.rsp = some (packWord 0x00 n 0 0) ∧ t.err = 0x00 ∧ t.bytecnt = n ∧ t.ackf = true ∧
      t.sbit = false ∧ t.atIdleLine ∧ (∀ j, readTx t j = readTx s j) ∧ ∀ j, readRx t j = readRx s j

/-- R142: XFER.R (n not 0) with the address acknowledged stores the n sampled bytes in RXBUF[0..n-1], most
significant bit first, answers ACK on all but the final byte and NACK on the final byte, and ends {OK, n, 0, 0} in
the idle line state; ACKF is the address acknowledge and SBIT bit 0 of the last byte. The term with n = 0, which no
word encodes, is answered ILLEGAL_CMD with nothing done: the model's choice (log 12). -/
def Obligations.ReadTransferStoresTheSampledBytes : Prop :=
  (∀ (s : State) (addr : BitVec 7), exec (.xferR addr 0) s = .next { s with err := 0xFF, rsp := some 0xFF000000 }) ∧
  ∀ (s : State) (addr : BitVec 7) (n : Byte), s.Ready → n ≠ 0 → s.world.AllDone (47 + 36 * n.toNat) →
    s.world.sampleAt s.cfg 0 = false →
    ∃ t, exec (.xferR addr n) s = .next t ∧
      linesBetween s t =
        (addressLines (addressByte addr true) ++ recvBytes n.toNat ++ stopLines).map some ∧
      t.fsm = .idle ∧ t.rsp = some (packWord 0x00 n 0 0) ∧ t.err = 0x00 ∧ t.bytecnt = n ∧ t.ackf = true ∧
      t.sbit = s.world.sampleAt s.cfg (8 * n.toNat) ∧ t.atIdleLine ∧
      (∀ k, k < n.toNat → readRx t (BitVec.ofNat 8 k) = s.world.byteAt s.cfg (1 + 8 * k)) ∧
      (∀ j : Byte, n.toNat ≤ j.toNat → readRx t j = readRx s j) ∧ ∀ j, readTx t j = readTx s j

/-- R201: an address byte that is not acknowledged ends either transfer, with no data phase, with the STOP sequence
and {ADDRESS_NACKED, 0, 0, 0}; the line state is idle, ACKF = 0, SBIT = 1, BYTECNT = 0, the buffers untouched. -/
def Obligations.AddressNackEndsTheTransferWithAStop : Prop :=
  ∀ (s : State) (addr : BitVec 7) (n : Byte) (isRead : Bool), s.Ready → (isRead = true → n ≠ 0) →
    s.world.AllDone 47 → s.world.sampleAt s.cfg 0 = true →
    ∃ t, exec (if isRead then .xferR addr n else .xferW addr n) s = .next t ∧
      linesBetween s t = (addressLines (addressByte addr isRead) ++ stopLines).map some ∧
      t.fsm = .idle ∧ t.rsp = some 0x01000000 ∧ t.err = 0x01 ∧ t.bytecnt = 0 ∧ t.ackf = false ∧ t.sbit = true ∧
      t.atIdleLine ∧ (∀ j, readTx t j = readTx s j) ∧ ∀ j, readRx t j = readRx s j

/-- R202: a payload byte that is not acknowledged ends XFER.W, with no further payload byte, with the STOP sequence
and {DATA_NACKED, c, 0, 0}, c the number of payload bytes acknowledged before it; no other command ends DATA_NACKED. -/
def Obligations.DataNackEndsTheWriteWithAStop : Prop :=
  (∀ (s t : State) (i : Instr) (r : Word), s.Ready → exec i s = .next t → t.rsp = some r → rspST r = 0x02 →
    ∃ addr n, i = .xferW addr n) ∧
  ∀ (s : State) (addr : BitVec 7) (n c : Byte), s.Ready → c < n →
    s.world.AllDone (47 + 36 * (c.toNat + 1)) →
    (∀ k, k ≤ c.toNat → s.world.sampleAt s.cfg k = false) → s.world.sampleAt s.cfg (c.toNat + 1) = true →
    ∃ t, exec (.xferW addr n) s = .next t ∧
      linesBetween s t =
        (addressLines (addressByte addr false) ++ sendBytes (payload s (c.toNat + 1)) ++ stopLines).map some ∧
      t.fsm = .idle ∧ t.rsp = some (packWord 0x02 c 0 0) ∧ t.err = 0x02 ∧ t.bytecnt = c ∧ t.ackf = false ∧
      t.sbit = true ∧ t.atIdleLine

/-- R209 (3): a fault in any of the six primitives of a STOP sequence that follows a NACK, or the bound of a recovery,
turns the status into BUS_TIMEOUT with CNT as R204 says, and the rest of the STOP is not performed. After the NACK of
the address byte, of XFER.W and of XFER.R: CNT = 0. After the NACK of payload byte c of XFER.W: CNT = c. After a stuck
recovery: CNT = 10. The NACK stays visible in ACKF only. -/
def Obligations.FaultInTheStopReplacesTheNack : Prop :=
  (∀ (s : State) (addr : BitVec 7) (n : Byte) (isRead : Bool) (k : Nat), s.Ready → (isRead = true → n ≠ 0) → k < 6 →
    s.world.AllDone (41 + k) → s.world.sampleAt s.cfg 0 = true → s.world.ackAt (41 + k) = .fault →
    ∃ t, exec (if isRead then .xferR addr n else .xferW addr n) s = .next t ∧
      linesBetween s t = (addressLines (addressByte addr isRead) ++ stopLines.take k).map some ++ [none] ∧
      t.fsm = .idle ∧ t.rsp = some 0x03000000 ∧ t.err = 0x03 ∧ t.ackf = false ∧ t.sbit = true) ∧
  (∀ (s : State) (addr : BitVec 7) (n c : Byte) (k : Nat), s.Ready → c < n → k < 6 →
    s.world.AllDone (41 + 36 * (c.toNat + 1) + k) →
    (∀ j, j ≤ c.toNat → s.world.sampleAt s.cfg j = false) → s.world.sampleAt s.cfg (c.toNat + 1) = true →
    s.world.ackAt (41 + 36 * (c.toNat + 1) + k) = .fault →
    ∃ t, exec (.xferW addr n) s = .next t ∧
      linesBetween s t = (addressLines (addressByte addr false) ++ sendBytes (payload s (c.toNat + 1)) ++
        stopLines.take k).map some ++ [none] ∧
      t.fsm = .idle ∧ t.rsp = some (packWord 0x03 c 0 0) ∧ t.err = 0x03 ∧ t.ackf = false ∧ t.sbit = true) ∧
  ∀ (s : State) (force : Bool) (k : Nat), s.Ready → k < 6 → s.world.AllDone (32 + k) →
    (∀ j, j ≤ 10 → s.world.sampleAt s.cfg j = false) → s.world.ackAt (32 + k) = .fault →
    ∃ t, exec (.recover force) s = .next t ∧
      linesBetween s t = ([Line.oe false, .sample] ++ (List.replicate 10 pulseLines).flatten ++
        stopLines.take k).map some ++ [none] ∧
      t.fsm = .idle ∧ t.rsp = some 0x030A0000 ∧ t.err = 0x03 ∧ t.ackf = s.ackf ∧ t.sbit = false

/-- R143, R147: a transfer that completes with any status but BUS_TIMEOUT performed the six STOP steps last, its
last bus symbol is P, and the line state is idle. -/
def Obligations.TransferEndsWithAStopAndIdle : Prop :=
  ∀ (s t : State) (i : Instr) (addr : BitVec 7) (n : Byte), s.Ready →
    (i = .xferW addr n ∨ (i = .xferR addr n ∧ n ≠ 0)) → exec i s = .next t → t.fsm = .idle → t.err ≠ 0x03 →
    (∃ L, linesBetween s t = L ++ stopLines.map some) ∧ t.atIdleLine ∧
    (symbols s.cfg s.lineState (eventsBetween s t)).getLast? = some .P

/-- R145: with every ninth-bit sample 0 the bus symbols of XFER.W are exactly S, the seven address bits, M0, Z0, each
payload byte with its Z0, P. This holds from every line state but (1, 0, 1), the idle line state among them; from
(1, 0, 1) START's first step makes a P before it (R121). -/
def Obligations.WriteTransferSymbols : Prop :=
  ∀ (s t : State) (addr : BitVec 7) (n : Byte), s.Ready → s.world.AllDone (47 + 36 * n.toNat) →
    (∀ k, k ≤ n.toNat → s.world.sampleAt s.cfg k = false) → exec (.xferW addr n) s = .next t →
    symbols s.cfg s.lineState (eventsBetween s t) =
      (if s.lineState = (true, false, true) then [.P] else []) ++ [.S] ++ (bitsOf (addressByte addr false)).map .M ++ [.Zs false] ++
      ((payload s n.toNat).flatMap fun b => (bitsOf b).map Symbol.M ++ [.Zs false]) ++ [.P]

/-- R144, R145: with the address acknowledged the bus symbols of XFER.R are exactly S, the seven address bits, M1, Z0,
n groups of eight Z symbols (the bits of the byte then in RXBUF[k]) each followed by M0, the last by M1, P: n - 1 ACKs
and one NACK. From the line state (1, 0, 1) START's first step makes a P before it (R121). -/
def Obligations.ReadTransferSymbols : Prop :=
  ∀ (s t : State) (addr : BitVec 7) (n : Byte), s.Ready → n ≠ 0 →
    s.world.AllDone (47 + 36 * n.toNat) → s.world.sampleAt s.cfg 0 = false → exec (.xferR addr n) s = .next t →
    symbols s.cfg s.lineState (eventsBetween s t) =
      (if s.lineState = (true, false, true) then [.P] else []) ++ [.S] ++ (bitsOf (addressByte addr true)).map .M ++ [.Zs false] ++
      ((List.range n.toNat).flatMap fun k =>
        (bitsOf (readRx t (BitVec.ofNat 8 k))).map Symbol.Zs ++ [.M (k + 1 == n.toNat)]) ++ [.P]

/-- R149: with the same environment answers, the trace of XFER.W is that of START, WBYTE {addr, 0}, WBYTE TXBUF[0],
..., cut after the first byte not acknowledged, and STOP; the port registers end equal. -/
def Obligations.WriteTransferEqualsSingleSteps : Prop :=
  ∀ (s : State) (addr : BitVec 7) (n : Byte), s.Ready → s.world.AllDone (47 + 36 * n.toNat) →
    ∃ t u, exec (.xferW addr n) s = .next t ∧ writeBySingles addr n s = some u ∧
      t.trace = u.trace ∧ t.portOut = u.portOut ∧ t.portDir = u.portDir

/-- R149: with the same environment answers and the address acknowledged, the trace of XFER.R is that of START,
WBYTE {addr, 1}, RBYTE 1 (n - 1 times), RBYTE 0, STOP; the port registers end equal. -/
def Obligations.ReadTransferEqualsSingleSteps : Prop :=
  ∀ (s : State) (addr : BitVec 7) (n : Byte), s.Ready → n ≠ 0 → s.world.AllDone (47 + 36 * n.toNat) →
    s.world.sampleAt s.cfg 0 = false →
    ∃ t u, exec (.xferR addr n) s = .next t ∧ readBySingles addr n s = some u ∧
      t.trace = u.trace ∧ t.portOut = u.portOut ∧ t.portDir = u.portDir

/-! ### Recovery -/

/-- R164: a line free at the first sample: with force_stop = 0 RECOVER ends after two primitives with no stop, with
force_stop = 1 the STOP sequence is performed; {OK, 0, 0, 0} either way. A line held at the first sample: the STOP
sequence is always performed last. -/
def Obligations.RecoverOfAFreeLine : Prop :=
  (∀ (s : State) (force : Bool), s.Ready → s.world.AllDone 38 → s.world.sampleAt s.cfg 0 = false →
    ∃ t L, exec (.recover force) s = .next t ∧ linesBetween s t = L ++ stopLines.map some) ∧
  ∀ (s : State) (force : Bool), s.Ready → s.world.AllDone (if force then 8 else 2) →
    s.world.sampleAt s.cfg 0 = true →
    ∃ t, exec (.recover force) s = .next t ∧
      linesBetween s t = ([Line.oe false, .sample] ++ if force then stopLines else []).map some ∧
      t.fsm = .idle ∧ t.rsp = some 0x00000000 ∧ t.err = 0x00 ∧ t.sbit = true ∧ t.pulsecnt = 0 ∧ t.ackf = s.ackf ∧
      t.lineState = if force then idleLine else (s.scl, s.sda, false)

/-- R160, R162: a line held for p pulses (1 to 10) and then released: p pulses, low then high with the sample while
high, then the STOP sequence, whatever force_stop is; {OK, p, 0, 0}; PULSECNT = p. -/
def Obligations.RecoverOfALineReleasedAfterPulses : Prop :=
  ∀ (s : State) (force : Bool) (p : Nat), s.Ready → 1 ≤ p → p ≤ 10 → s.world.AllDone (8 + 3 * p) →
    (∀ k, k < p → s.world.sampleAt s.cfg k = false) → s.world.sampleAt s.cfg p = true →
    ∃ t, exec (.recover force) s = .next t ∧
      linesBetween s t =
        ([Line.oe false, .sample] ++ (List.replicate p pulseLines).flatten ++ stopLines).map some ∧
      t.fsm = .idle ∧ t.rsp = some (packWord 0x00 (BitVec.ofNat 8 p) 0 0) ∧ t.err = 0x00 ∧ t.sbit = true ∧
      t.pulsecnt.toNat = p ∧ t.ackf = s.ackf ∧ t.atIdleLine

/-- R165, R205: a line still held after ten pulses: the STOP sequence is still performed, and the response is
{BUS_STUCK, 10, 0, 0}. -/
def Obligations.RecoverOfAStuckLine : Prop :=
  ∀ (s : State) (force : Bool), s.Ready → s.world.AllDone 38 →
    (∀ k, k ≤ 10 → s.world.sampleAt s.cfg k = false) →
    ∃ t, exec (.recover force) s = .next t ∧
      linesBetween s t =
        ([Line.oe false, .sample] ++ (List.replicate 10 pulseLines).flatten ++ stopLines).map some ∧
      t.fsm = .idle ∧ t.rsp = some 0x040A0000 ∧ t.err = 0x04 ∧ t.sbit = false ∧ t.pulsecnt = 10 ∧
      t.ackf = s.ackf ∧ t.atIdleLine

/-- R163: RECOVER issues at most 10 pulses and takes at most 11 samples, in every environment; it ends OK with
CNT = p exactly when the first p samples of 1 + p are 0 and the last is 1, for p from 0 to 10; it ends BUS_STUCK
exactly when all 11 samples are 0. -/
def Obligations.RecoverEndsAsItsSamplesSay : Prop :=
  (∀ (s t : State) (force : Bool), s.Ready → exec (.recover force) s = .next t →
    t.pulsecnt.toNat ≤ 10 ∧ (linesBetween s t).count (some .sample) ≤ 11 ∧
    (linesBetween s t).count (some (.scl true)) ≤ 10 + 1) ∧
  ∀ (s t : State) (force : Bool), s.Ready → s.world.AllDone 38 → exec (.recover force) s = .next t →
    (∀ p, p ≤ 10 → (t.rsp = some (packWord 0x00 (BitVec.ofNat 8 p) 0 0) ↔
      (∀ k, k < p → s.world.sampleAt s.cfg k = false) ∧ s.world.sampleAt s.cfg p = true)) ∧
    (t.rsp = some (packWord 0x04 10 0 0) ↔ ∀ k, k ≤ 10 → s.world.sampleAt s.cfg k = false)

/-! ### Port and buffer commands -/

/-- R170: AUXSET writes the latch bit, then makes the bit an output, and changes no other bit of either register; a
fault at the second primitive leaves the latch written and the direction unchanged; an I2C bit is answered
ILLEGAL_CMD with nothing written. -/
def Obligations.AuxsetWritesOneAuxiliaryBit : Prop :=
  ∀ (s : State) (bit : Fin 8) (value : Bool), s.Ready →
    (s.cfg.isI2c bit = false →
      (PerformsLines (.auxset bit value) [.auxOut bit value, .auxDir bit] s fun t =>
        (∀ j, testBit t.portOut j = if j = bit then value else testBit s.portOut j) ∧
        (∀ j, testBit t.portDir j = if j = bit then true else testBit s.portDir j) ∧
        t.lineState = s.lineState ∧ t.rsp = some 0x00000000 ∧ t.err = 0x00 ∧ t.ackf = s.ackf ∧ t.sbit = s.sbit) ∧
      (s.world.ackAt 0 = .done → s.world.ackAt 1 = .fault →
        ∃ t, exec (.auxset bit value) s = .next t ∧ testBit t.portOut bit = value ∧ t.portDir = s.portDir)) ∧
    (s.cfg.isI2c bit = true →
      exec (.auxset bit value) s = .next { s with err := 0xFF, rsp := some 0xFF000000 })

/-- R171: TXWR stores its byte in TXBUF[idx] with no primitive, answers {OK, 0, 0, 0}, and changes nothing else. -/
def Obligations.TxwrStoresOneByte : Prop :=
  ∀ (s : State) (idx b : Byte), s.Ready →
    ∃ m, exec (.txwr idx b) s =
        .next { s with txbuf := m, rsp := some 0x00000000, err := 0x00, phase := 0, cur := none } ∧
      readTx { s with txbuf := m } idx = b ∧
      ∀ j, j ≠ idx → readTx { s with txbuf := m } j = readTx s j

/-- R172: RXRD answers {OK, 0, RXBUF[idx]} with no primitive and changes nothing but ERR (and the response). -/
def Obligations.RxrdAnswersTheBufferByte : Prop :=
  ∀ (s : State) (idx : Byte), s.Ready →
    exec (.rxrd idx) s =
      .next { s with rsp := some (packWord 0x00 0 0 (readRx s idx)), err := 0x00, phase := 0, cur := none }

/-! ### Frames: what a command leaves unchanged, in every environment (faults and waits included) -/

/-- R173, R24: for every command but AUXSET every Out event keeps the six auxiliary bits of PORT_OUT, every Dir event
keeps the six auxiliary bits of PORT_DIR (and every bit but the data line's) and has the clock driven, and the
registers end so. -/
def Obligations.AuxiliaryBitsSurviveEveryBusCommand : Prop :=
  ∀ (s t : State) (i : Instr), i.isAuxset = false → exec i s = .next t →
    (∃ es, t.trace = s.trace ++ es ∧ ∀ e ∈ es, match e.full with
      | .out v => auxSame s.cfg v s.portOut
      | .dir d => auxSame s.cfg d s.portDir ∧ (∀ j, j ≠ s.cfg.sdaBit → testBit d j = testBit s.portDir j) ∧
          (s.cfg.legal = true → s.sclOe = true → testBit d s.cfg.sclBit = true)
      | .inp _ => True
      | .fault => True) ∧
    auxSame s.cfg t.portOut s.portOut ∧ ∀ j, j ≠ s.cfg.sdaBit → testBit t.portDir j = testBit s.portDir j

/-- Frame of START, STOP, WBIT and RBIT: no register but PORT_OUT, PORT_DIR, ERR, the sequencer position and, for
RBIT, SBIT changes; the auxiliary bits and all other directions keep their values; no buffer byte changes. -/
def Obligations.LineCommandFrame : Prop :=
  ∀ (s t : State) (i : Instr), (i = .start ∨ i = .stop ∨ (∃ b, i = .wbit b) ∨ i = .rbit) → exec i s = .next t →
    t.cfg = s.cfg ∧ t.shreg = s.shreg ∧ t.bitcnt = s.bitcnt ∧ t.bytecnt = s.bytecnt ∧ t.pulsecnt = s.pulsecnt ∧
    t.addrb = s.addrb ∧ t.rw = s.rw ∧ t.len = s.len ∧ t.force = s.force ∧ t.ackf = s.ackf ∧
    (i ≠ .rbit → t.sbit = s.sbit) ∧ t.stopStatus = s.stopStatus ∧ t.epoch = s.epoch ∧
    auxSame s.cfg t.portOut s.portOut ∧ (∀ j, j ≠ s.cfg.sdaBit → testBit t.portDir j = testBit s.portDir j) ∧
    (∀ a, readTx t a = readTx s a) ∧ ∀ a, readRx t a = readRx s a

/-- Frame of WBYTE and RBYTE: no register but PORT_OUT, PORT_DIR, SHREG, BITCNT, SBIT, ERR, the sequencer position
and, for WBYTE, ACKF changes; no buffer byte changes. -/
def Obligations.ByteCommandFrame : Prop :=
  ∀ (s t : State) (i : Instr), ((∃ v, i = .wbyte v) ∨ ∃ a, i = .rbyte a) → exec i s = .next t →
    t.cfg = s.cfg ∧ t.bytecnt = s.bytecnt ∧ t.pulsecnt = s.pulsecnt ∧
    t.addrb = s.addrb ∧ t.rw = s.rw ∧ t.len = s.len ∧ t.force = s.force ∧
    ((∃ a, i = .rbyte a) → t.ackf = s.ackf) ∧ t.stopStatus = s.stopStatus ∧ t.epoch = s.epoch ∧
    auxSame s.cfg t.portOut s.portOut ∧ (∀ j, j ≠ s.cfg.sdaBit → testBit t.portDir j = testBit s.portDir j) ∧
    (∀ a, readTx t a = readTx s a) ∧ ∀ a, readRx t a = readRx s a

/-- Frame of XFER.W and XFER.R: PULSECNT, FORCE, the auxiliary bits and all other directions keep their values;
TXBUF is never written; XFER.W writes no byte of RXBUF, XFER.R none at an index of n or more. -/
def Obligations.TransferFrame : Prop :=
  ∀ (s t : State) (i : Instr) (addr : BitVec 7) (n : Byte), (i = .xferW addr n ∨ i = .xferR addr n) →
    exec i s = .next t →
    t.cfg = s.cfg ∧ t.pulsecnt = s.pulsecnt ∧ t.force = s.force ∧ t.epoch = s.epoch ∧
    auxSame s.cfg t.portOut s.portOut ∧ (∀ j, j ≠ s.cfg.sdaBit → testBit t.portDir j = testBit s.portDir j) ∧
    (∀ a, readTx t a = readTx s a) ∧
    (i = .xferW addr n → ∀ a, readRx t a = readRx s a) ∧
    (i = .xferR addr n → ∀ a : Byte, n.toNat ≤ a.toNat → readRx t a = readRx s a)

/-- Frame of RECOVER: no register but PORT_OUT, PORT_DIR, FORCE, PULSECNT, SBIT, ERR, the pending STOP status and the
sequencer position changes; no buffer byte changes. -/
def Obligations.RecoverFrame : Prop :=
  ∀ (s t : State) (force : Bool), exec (.recover force) s = .next t →
    t.cfg = s.cfg ∧ t.shreg = s.shreg ∧ t.bitcnt = s.bitcnt ∧ t.bytecnt = s.bytecnt ∧ t.addrb = s.addrb ∧
    t.rw = s.rw ∧ t.len = s.len ∧ t.force = force ∧ t.ackf = s.ackf ∧ t.epoch = s.epoch ∧
    auxSame s.cfg t.portOut s.portOut ∧ (∀ j, j ≠ s.cfg.sdaBit → testBit t.portDir j = testBit s.portDir j) ∧
    (∀ a, readTx t a = readTx s a) ∧ ∀ a, readRx t a = readRx s a

/-- Frame of AUXSET: no register but PORT_OUT, PORT_DIR (both at the named bit alone), ERR and the sequencer position
changes; no buffer byte changes. -/
def Obligations.AuxsetFrame : Prop :=
  ∀ (s t : State) (bit : Fin 8) (value : Bool), exec (.auxset bit value) s = .next t →
    t.cfg = s.cfg ∧ t.shreg = s.shreg ∧ t.bitcnt = s.bitcnt ∧ t.bytecnt = s.bytecnt ∧ t.pulsecnt = s.pulsecnt ∧
    t.addrb = s.addrb ∧ t.rw = s.rw ∧ t.len = s.len ∧ t.force = s.force ∧ t.ackf = s.ackf ∧ t.sbit = s.sbit ∧
    t.stopStatus = s.stopStatus ∧ t.epoch = s.epoch ∧
    (∀ j, j ≠ bit → testBit t.portOut j = testBit s.portOut j) ∧
    (∀ j, j ≠ bit → testBit t.portDir j = testBit s.portDir j) ∧
    (∀ a, readTx t a = readTx s a) ∧ ∀ a, readRx t a = readRx s a

/-! ### Whole-machine rules -/

/-- R39: TXBUF is written only by TXWR, RXBUF only by XFER.R; over every command and every environment. -/
def Obligations.BuffersHaveOneWriterEach : Prop :=
  ∀ (s t : State) (i : Instr) (a : Byte), exec i s = .next t →
    (readTx t a ≠ readTx s a → ∃ b, i = .txwr a b) ∧
    (readRx t a ≠ readRx s a → ∃ addr n, i = .xferR addr n ∧ a.toNat < n.toNat)

/-- R33: ACKF is written by WBYTE and the transfers alone. -/
def Obligations.AckFlagIsWrittenBySentBytesOnly : Prop :=
  ∀ (s t : State) (i : Instr), exec i s = .next t → t.ackf ≠ s.ackf →
    (∃ v, i = .wbyte v) ∨ (∃ addr n, i = .xferW addr n) ∨ ∃ addr n, i = .xferR addr n

/-- R25: the clock line's direction is 1 from reset on and no command writes it; the data line's is the only direction
bit that a bus command writes. -/
def Obligations.ClockDirectionIsNeverWritten : Prop :=
  (∀ c : Config, (State.resetWith c).sclOe = true) ∧
  ∀ (s t : State) (i : Instr), s.cfg.legal = true → exec i s = .next t →
    t.sclOe = s.sclOe ∧
    (i.isAuxset = false → ∀ j, j ≠ s.cfg.sdaBit → testBit t.portDir j = testBit s.portDir j) ∧
    ∃ es, t.trace = s.trace ++ es ∧ ∀ e ∈ es, ∀ d, e.full = .dir d → testBit d s.cfg.sclBit = s.sclOe

/-- R74: the engine samples only while SDA_OE = 0, in every command and every environment. -/
def Obligations.SamplesAreTakenWithTheLineReleased : Prop :=
  ∀ (s t : State) (i : Instr), exec i s = .next t →
    ∃ es, t.trace = s.trace ++ es ∧ samplesReleased s.sdaOe es = true

/-- R35: ERR is 0x00 after reset, every response writes it with its status, and the ERR a command finds changes nothing
of what the command does. -/
def Obligations.ErrGatesNothing : Prop :=
  (∀ c : Config, (State.resetWith c).err = 0x00) ∧
  ∀ (s t : State) (i : Instr) (e : Byte), s.Ready → exec i s = .next t →
    (∀ r, t.rsp = some r → t.err = rspST r ∧ exec i { s with err := e } = .next t) ∧
    (t.rsp = none → exec i { s with err := e } = .next { t with err := e })

/-- R11, R204, R209: a FAULT is the last event of its command, and the status is BUS_TIMEOUT exactly when there is
one. -/
def Obligations.FaultIsLastAndIsTheTimeout : Prop :=
  ∀ (s t : State) (i : Instr), s.Ready → exec i s = .next t →
    ∃ es, t.trace = s.trace ++ es ∧ (∀ l : List Event, ∀ e, es = l ++ [e] → Event.fault ∉ l) ∧
      (t.fsm = .idle → (t.err = 0x03 ↔ Event.fault ∈ es))

/-- R244: every command ends, with a response, after at most its bound of primitives, whatever samples and faults the
environment chooses, as long as no primitive waits. -/
def Obligations.EveryCommandEndsWithinItsBound : Prop :=
  ∀ (s : State) (i : Instr), s.Ready → s.world.NoWait i.maxPrims →
    ∃ t es, exec i s = .next t ∧ t.fsm = .idle ∧ t.rsp.isSome = true ∧
      t.trace = s.trace ++ es ∧ es.length ≤ i.maxPrims

/-- R43, U16: a wait changes nothing but when: a command cut by a wait after k completed primitives, and then
resumed by a step with quiet pins, ends exactly as the same command without the wait. -/
def Obligations.PausedCommandResumesUnchanged : Prop :=
  ∀ (s : State) (i : Instr) (as bs : List PadAck) (t : State), s.Ready → i.wf s.cfg = true →
    (∀ a ∈ as, a = .done) → s.world.pins = [] →
    exec i { s with world := { s.world with padAck := as ++ .wait :: bs } } = .next t → t.fsm ≠ .idle →
    step t = exec i { s with world := { s.world with padAck := as ++ bs } }

/-- The invariant holds at reset, for every configuration of the hardware. -/
def Obligations.InvariantHoldsAtReset : Prop :=
  ∀ c : Config, c.legal = true → (State.resetWith c).Inv

/-- Every step keeps the invariant, from every state that has it (R25, R28, R30, R35, R38, R41, R96). -/
def Obligations.StepKeepsTheInvariant : Prop :=
  ∀ s t : State, s.Inv → step s = .next t → t.Inv

/-- From every state with the invariant a step answers a next state: the engine never halts (R200, R210). -/
def Obligations.StepAlwaysAnswersNext : Prop :=
  ∀ s : State, s.Inv → ∃ t, step s = .next t

/-! ### Host layer -/

/-- R183: read_register with both transfers acknowledged returns exactly the sampled bytes, in order. -/
def Obligations.ReadRegisterReturnsTheSampledBytes : Prop :=
  ∀ (f : RegisterFormat) (dev : DeviceHandle) (reg : Byte) (len : Nat) (s : State), s.Ready → s.Inv →
    1 ≤ len → len ≤ 255 → s.world.AllDone (83 + 47 + 36 * len) →
    (∀ k, k < 3 → s.world.sampleAt s.cfg k = false) →
    (readRegister f dev reg len s).2 = .ok ((List.range len).map fun k => s.world.byteAt s.cfg (3 + 8 * k))

/-- R183: a write phase whose address is not acknowledged ends read_register with that failure, without a read phase:
one TXWR, which stores the command byte in TXBUF[0] and nothing else, and one XFER.W, 47 primitives, with no payload
bit; RXBUF is untouched. -/
def Obligations.ReadRegisterSkipsTheReadPhase : Prop :=
  ∀ (f : RegisterFormat) (dev : DeviceHandle) (reg : Byte) (len : Nat) (s : State), s.Ready → s.Inv →
    1 ≤ len → len ≤ 255 → s.world.AllDone 47 → s.world.sampleAt s.cfg 0 = true →
    (readRegister f dev reg len s).2 = .failure 0x01 ∧
    linesBetween s (readRegister f dev reg len s).1 =
      (addressLines (addressByte dev.addr false) ++ stopLines).map some ∧
    readTx (readRegister f dev reg len s).1 0 = cmdByte f reg ∧
    (∀ j, j ≠ 0 → readTx (readRegister f dev reg len s).1 j = readTx s j) ∧
    ∀ j, readRx (readRegister f dev reg len s).1 j = readRx s j

/-- R185: with_retry hands every result but failure(BUS_TIMEOUT) through, with no command issued. After
failure(BUS_TIMEOUT) it issues RECOVER 1. A recovery that is not OK is a hard failure with the recovery's status, and the
operation is not run again: BUS_STUCK on a line never released, BUS_TIMEOUT when the recovery faults. A recovery that is
OK is followed by exactly one more run of the operation, whose result is handed through, but for a second
failure(BUS_TIMEOUT), which becomes a hard failure with no further command. On a free line the recovery is OK and leaves
the engine ready, with a stop made. -/
def Obligations.RetryRecoversOnlyFromATimeout : Prop :=
  ∀ (α : Type) (op : State → State × HostResult α) (s t : State) (r : HostResult α), op s = (t, r) →
    (r ≠ .failure 0x03 → withRetry op s = (t, r)) ∧
    (r = .failure 0x03 →
      (∀ u c, issue (encode (.recover true)) t = some (u, c) →
        (rspST c ≠ 0x00 → withRetry op s = (u, .hardFailure (rspST c))) ∧
        (rspST c = 0x00 →
          ((op u).2 = .failure 0x03 → withRetry op s = ((op u).1, .hardFailure 0x03)) ∧
          ((op u).2 ≠ .failure 0x03 → withRetry op s = op u))) ∧
      (t.Ready → t.Inv →
        (t.world.AllDone 38 → (∀ k, k ≤ 10 → t.world.sampleAt t.cfg k = false) →
          ∃ u, issue (encode (.recover true)) t = some (u, 0x040A0000) ∧ withRetry op s = (u, .hardFailure 0x04)) ∧
        (∀ k, k < 2 → t.world.AllDone k → t.world.ackAt k = .fault →
          ∃ u, issue (encode (.recover true)) t = some (u, 0x03000000) ∧ withRetry op s = (u, .hardFailure 0x03)) ∧
        (t.world.AllDone 8 → t.world.sampleAt t.cfg 0 = true →
          ∃ u, issue (encode (.recover true)) t = some (u, 0x00000000) ∧ u.Ready ∧ u.atIdleLine ∧
            linesBetween t u = ([Line.oe false, .sample] ++ stopLines).map some)))
end

