-- ==== Sys2Proof/Laws/Bits.lean ====
section
/-! SUPPORT. Laws of the bit helpers: which bit an insert, a masked write and the reset values change. -/

namespace Sys2Proof.Machine

theorem getLsbD_bitMask (i : Fin 8) (j : Nat) (hj : j < 8) : (bitMask i).getLsbD j = decide (j = i.val) := by
  revert i j; decide

theorem getLsbD_bitAt (i : Fin 8) (b : Bool) (j : Nat) (hj : j < 8) :
    (bitAt i b).getLsbD j = (b && decide (j = i.val)) := by
  revert i b j; decide

/-- R174: only bit i changes, and it becomes b. -/
theorem getLsbD_insertBit (v : Byte) (i : Fin 8) (b : Bool) (j : Nat) (hj : j < 8) :
    (insertBit v i b).getLsbD j = if j = i.val then b else v.getLsbD j := by
  simp only [insertBit, BitVec.getLsbD_or, BitVec.getLsbD_and, BitVec.getLsbD_not, hj, decide_true, Bool.true_and,
    getLsbD_bitMask, getLsbD_bitAt]
  by_cases h : j = i.val <;> simp [h]

@[simp] theorem testBit_insertBit (v : Byte) (i j : Fin 8) (b : Bool) :
    testBit (insertBit v i b) j = if j = i then b else testBit v j := by
  rw [testBit, getLsbD_insertBit v i b j.val j.isLt, testBit]
  simp only [Fin.ext_iff]

/-- R67: a PadDir of one bit's mask is a bit insert. -/
@[simp] theorem maskedWrite_bit (v : Byte) (i : Fin 8) (b : Bool) :
    maskedWrite v (bitMask i) (bitAt i b) = insertBit v i b := by
  apply BitVec.eq_of_getLsbD_eq
  intro j hj
  rw [getLsbD_insertBit v i b j hj]
  simp only [maskedWrite, BitVec.getLsbD_or, BitVec.getLsbD_and, BitVec.getLsbD_not, hj, decide_true, Bool.true_and,
    getLsbD_bitMask, getLsbD_bitAt]
  by_cases h : j = i.val <;> simp [h]

/-- R170: AUXSET's PadDir sets the bit. -/
@[simp] theorem maskedWrite_set (v : Byte) (i : Fin 8) :
    maskedWrite v (bitMask i) (bitMask i) = insertBit v i true := by
  apply BitVec.eq_of_getLsbD_eq
  intro j hj
  rw [getLsbD_insertBit v i true j hj]
  simp only [maskedWrite, BitVec.getLsbD_or, BitVec.getLsbD_and, BitVec.getLsbD_not, hj, decide_true, Bool.true_and,
    getLsbD_bitMask]
  by_cases h : j = i.val <;> simp [h]

/-- Inserting twice at one place keeps the later bit. -/
@[simp] theorem insertBit_insertBit (v : Byte) (i : Fin 8) (a b : Bool) :
    insertBit (insertBit v i a) i b = insertBit v i b := by
  apply BitVec.eq_of_getLsbD_eq
  intro j hj
  simp only [getLsbD_insertBit _ _ _ j hj]
  by_cases h : j = i.val <;> simp [h]

/-- Inserts at different places commute. -/
theorem insertBit_comm (v : Byte) {i j : Fin 8} (h : i ≠ j) (a b : Bool) :
    insertBit (insertBit v i a) j b = insertBit (insertBit v j b) i a := by
  apply BitVec.eq_of_getLsbD_eq
  intro k hk
  simp only [getLsbD_insertBit _ _ _ k hk]
  by_cases h1 : k = j.val <;> by_cases h2 : k = i.val <;> simp_all [Fin.ext_iff]

/-- Inserting the bit that is there changes nothing. -/
theorem insertBit_self (v : Byte) (i : Fin 8) : insertBit v i (testBit v i) = v := by
  apply BitVec.eq_of_getLsbD_eq
  intro j hj
  simp only [getLsbD_insertBit _ _ _ j hj, testBit]
  by_cases h : j = i.val <;> simp [h]

/-- R47: PORT_OUT after reset has exactly the two I2C bits set. -/
theorem testBit_resetPortOut (c : Config) (i : Fin 8) : testBit (resetPortOut c) i = c.isI2c i := by
  rw [Bool.eq_iff_iff]
  simp only [testBit, resetPortOut, BitVec.getLsbD_or, getLsbD_bitMask _ _ i.isLt, Config.isI2c]
  simp [Fin.ext_iff]

/-- R47: PORT_DIR after reset has exactly the clock bit set. -/
theorem testBit_resetPortDir (c : Config) (i : Fin 8) : testBit (resetPortDir c) i = (i == c.sclBit) := by
  rw [Bool.eq_iff_iff]
  simp only [testBit, resetPortDir, getLsbD_bitMask _ _ i.isLt]
  simp [Fin.ext_iff]

end Sys2Proof.Machine
end

