-- ==== Sys2Proof/Laws/Decode.lean ====
section
/-! SUPPORT. Laws of the 32-bit words: the fields of a packed word, packing of the fields, masks field by field, the
fields of a response. -/

namespace Sys2Proof

@[simp] theorem fieldOP_packWord (a b c d : Byte) : fieldOP (packWord a b c d) = a := by
  apply BitVec.eq_of_getLsbD_eq
  intro i hi
  simp only [fieldOP, packWord, BitVec.getLsbD_extractLsb', BitVec.getLsbD_append]
  simp [hi, show ¬ (24 + i < 8) by omega, show ¬ (24 + i - 8 < 8) by omega, show ¬ (24 + i - 8 - 8 < 8) by omega,
    show 24 + i - 8 - 8 - 8 = i by omega]

@[simp] theorem fieldN_packWord (a b c d : Byte) : fieldN (packWord a b c d) = b := by
  apply BitVec.eq_of_getLsbD_eq
  intro i hi
  simp only [fieldN, packWord, BitVec.getLsbD_extractLsb', BitVec.getLsbD_append]
  simp [hi, show ¬ (16 + i < 8) by omega, show ¬ (16 + i - 8 < 8) by omega,
    show 16 + i - 8 - 8 = i by omega]

@[simp] theorem fieldA_packWord (a b c d : Byte) : fieldA (packWord a b c d) = c := by
  apply BitVec.eq_of_getLsbD_eq
  intro i hi
  simp only [fieldA, packWord, BitVec.getLsbD_extractLsb', BitVec.getLsbD_append]
  simp [hi, show ¬ (8 + i < 8) by omega]

@[simp] theorem fieldD_packWord (a b c d : Byte) : fieldD (packWord a b c d) = d := by
  apply BitVec.eq_of_getLsbD_eq
  intro i hi
  simp only [fieldD, packWord, BitVec.getLsbD_extractLsb', BitVec.getLsbD_append]
  simp [hi]

/-- A word is its four fields (R90). -/
theorem packWord_fields (w : Word) : packWord (fieldOP w) (fieldN w) (fieldA w) (fieldD w) = w := by
  apply BitVec.eq_of_getLsbD_eq
  intro i hi
  simp only [packWord, fieldOP, fieldN, fieldA, fieldD, BitVec.getLsbD_append, BitVec.getLsbD_extractLsb']
  by_cases h1 : i < 8
  · simp [h1]
  · by_cases h2 : i < 16
    · simp [h1, show i - 8 < 8 by omega, show 8 + (i - 8) = i by omega]
    · by_cases h3 : i < 24
      · simp [h1, show ¬ i - 8 < 8 by omega, show i - 8 - 8 < 8 by omega, show 16 + (i - 8 - 8) = i by omega]
      · simp [h1, show ¬ i - 8 < 8 by omega, show ¬ i - 8 - 8 < 8 by omega, show i - 8 - 8 - 8 < 8 by omega,
          show 24 + (i - 8 - 8 - 8) = i by omega]

/-- A mask acts field by field. -/
theorem packWord_and (a b c d a' b' c' d' : Byte) :
    packWord a b c d &&& packWord a' b' c' d' = packWord (a &&& a') (b &&& b') (c &&& c') (d &&& d') := by
  apply BitVec.eq_of_getLsbD_eq
  intro i hi
  simp only [packWord, BitVec.getLsbD_append, BitVec.getLsbD_and]
  repeat' split
  all_goals rfl

/-- Two packed words are equal exactly when their fields are. -/
theorem packWord_inj {a b c d a' b' c' d' : Byte} :
    packWord a b c d = packWord a' b' c' d' ↔ a = a' ∧ b = b' ∧ c = c' ∧ d = d' := by
  constructor
  · intro h
    refine ⟨?_, ?_, ?_, ?_⟩
    · rw [← fieldOP_packWord a b c d, h, fieldOP_packWord]
    · rw [← fieldN_packWord a b c d, h, fieldN_packWord]
    · rw [← fieldA_packWord a b c d, h, fieldA_packWord]
    · rw [← fieldD_packWord a b c d, h, fieldD_packWord]
  · rintro ⟨rfl, rfl, rfl, rfl⟩
    rfl

/-- The one-bit operand is read back from its byte. -/
theorem bitByte_bit (b : Bool) : (bitByte b).getLsbD 0 = b := by cases b <;> rfl

/-- The one-bit operand sets no reserved bit. -/
theorem bitByte_reserved (b : Bool) : bitByte b &&& 0xFE = 0 := by cases b <;> rfl

/-- The slave address is read back from its byte, and sets no reserved bit. -/
theorem addr_field : ∀ a : BitVec 7, (a.setWidth 8 : Byte).extractLsb' 0 7 = a ∧ (a.setWidth 8 : Byte) &&& 0x80 = 0 := by
  decide

/-- The port bit index is read back from its byte, and sets no reserved bit. -/
theorem bit_field : ∀ i : Fin 8,
    ((BitVec.ofNat 8 i.val).extractLsb' 0 3).toFin = i ∧ BitVec.ofNat 8 i.val &&& 0xF8 = 0 := by
  decide

end Sys2Proof

namespace Sys2Proof.Machine

/-- A response is a packed word (R96). -/
theorem response_eq (st : Status) (cnt val : Byte) : response st cnt val = packWord st.code cnt 0x00 val := rfl

@[simp] theorem rspST_response (st : Status) (cnt val : Byte) : rspST (response st cnt val) = st.code :=
  fieldOP_packWord st.code cnt 0x00 val

@[simp] theorem rspCNT_response (st : Status) (cnt val : Byte) : rspCNT (response st cnt val) = cnt :=
  fieldN_packWord st.code cnt 0x00 val

@[simp] theorem rspVAL_response (st : Status) (cnt val : Byte) : rspVAL (response st cnt val) = val :=
  fieldD_packWord st.code cnt 0x00 val

/-- Bits 15:8 of a response are 0 (R96). -/
theorem response_zero (st : Status) (cnt val : Byte) : (response st cnt val).extractLsb' 8 8 = 0x00#8 :=
  fieldA_packWord st.code cnt 0x00 val

end Sys2Proof.Machine
end

