-- ==== Sys2Proof/Laws/State.lean ====
section
/-! SUPPORT. One lemma per field per named update of State, true by rfl: no later proof unfolds a record update. -/

namespace Sys2Proof.Machine

variable (s : State)

/-! ### takeAck -/

@[simp] theorem takeAck_cfg : (takeAck s).cfg = s.cfg := rfl
@[simp] theorem takeAck_portOut : (takeAck s).portOut = s.portOut := rfl
@[simp] theorem takeAck_portDir : (takeAck s).portDir = s.portDir := rfl
@[simp] theorem takeAck_shreg : (takeAck s).shreg = s.shreg := rfl
@[simp] theorem takeAck_bitcnt : (takeAck s).bitcnt = s.bitcnt := rfl
@[simp] theorem takeAck_bytecnt : (takeAck s).bytecnt = s.bytecnt := rfl
@[simp] theorem takeAck_pulsecnt : (takeAck s).pulsecnt = s.pulsecnt := rfl
@[simp] theorem takeAck_addrb : (takeAck s).addrb = s.addrb := rfl
@[simp] theorem takeAck_rw : (takeAck s).rw = s.rw := rfl
@[simp] theorem takeAck_len : (takeAck s).len = s.len := rfl
@[simp] theorem takeAck_force : (takeAck s).force = s.force := rfl
@[simp] theorem takeAck_ackf : (takeAck s).ackf = s.ackf := rfl
@[simp] theorem takeAck_sbit : (takeAck s).sbit = s.sbit := rfl
@[simp] theorem takeAck_err : (takeAck s).err = s.err := rfl
@[simp] theorem takeAck_fsm : (takeAck s).fsm = s.fsm := rfl
@[simp] theorem takeAck_phase : (takeAck s).phase = s.phase := rfl
@[simp] theorem takeAck_cur : (takeAck s).cur = s.cur := rfl
@[simp] theorem takeAck_stopStatus : (takeAck s).stopStatus = s.stopStatus := rfl
@[simp] theorem takeAck_txbuf : (takeAck s).txbuf = s.txbuf := rfl
@[simp] theorem takeAck_rxbuf : (takeAck s).rxbuf = s.rxbuf := rfl
@[simp] theorem takeAck_rsp : (takeAck s).rsp = s.rsp := rfl
@[simp] theorem takeAck_trace : (takeAck s).trace = s.trace := rfl
@[simp] theorem takeAck_epoch : (takeAck s).epoch = s.epoch := rfl
@[simp] theorem takeAck_world : (takeAck s).world = s.world.dropAck := rfl

/-! ### takePins -/

@[simp] theorem takePins_cfg : (takePins s).cfg = s.cfg := rfl
@[simp] theorem takePins_portOut : (takePins s).portOut = s.portOut := rfl
@[simp] theorem takePins_portDir : (takePins s).portDir = s.portDir := rfl
@[simp] theorem takePins_shreg : (takePins s).shreg = s.shreg := rfl
@[simp] theorem takePins_bitcnt : (takePins s).bitcnt = s.bitcnt := rfl
@[simp] theorem takePins_bytecnt : (takePins s).bytecnt = s.bytecnt := rfl
@[simp] theorem takePins_pulsecnt : (takePins s).pulsecnt = s.pulsecnt := rfl
@[simp] theorem takePins_addrb : (takePins s).addrb = s.addrb := rfl
@[simp] theorem takePins_rw : (takePins s).rw = s.rw := rfl
@[simp] theorem takePins_len : (takePins s).len = s.len := rfl
@[simp] theorem takePins_force : (takePins s).force = s.force := rfl
@[simp] theorem takePins_ackf : (takePins s).ackf = s.ackf := rfl
@[simp] theorem takePins_sbit : (takePins s).sbit = s.sbit := rfl
@[simp] theorem takePins_err : (takePins s).err = s.err := rfl
@[simp] theorem takePins_fsm : (takePins s).fsm = s.fsm := rfl
@[simp] theorem takePins_phase : (takePins s).phase = s.phase := rfl
@[simp] theorem takePins_cur : (takePins s).cur = s.cur := rfl
@[simp] theorem takePins_stopStatus : (takePins s).stopStatus = s.stopStatus := rfl
@[simp] theorem takePins_txbuf : (takePins s).txbuf = s.txbuf := rfl
@[simp] theorem takePins_rxbuf : (takePins s).rxbuf = s.rxbuf := rfl
@[simp] theorem takePins_rsp : (takePins s).rsp = s.rsp := rfl
@[simp] theorem takePins_trace : (takePins s).trace = s.trace := rfl
@[simp] theorem takePins_epoch : (takePins s).epoch = s.epoch := rfl
@[simp] theorem takePins_world : (takePins s).world = s.world.dropPins := rfl

/-! ### padWrite -/

@[simp] theorem padWrite_cfg (l : Line) (v : Byte) : (padWrite l v s).cfg = s.cfg := rfl
@[simp] theorem padWrite_portOut (l : Line) (v : Byte) : (padWrite l v s).portOut = v := rfl
@[simp] theorem padWrite_portDir (l : Line) (v : Byte) : (padWrite l v s).portDir = s.portDir := rfl
@[simp] theorem padWrite_shreg (l : Line) (v : Byte) : (padWrite l v s).shreg = s.shreg := rfl
@[simp] theorem padWrite_bitcnt (l : Line) (v : Byte) : (padWrite l v s).bitcnt = s.bitcnt := rfl
@[simp] theorem padWrite_bytecnt (l : Line) (v : Byte) : (padWrite l v s).bytecnt = s.bytecnt := rfl
@[simp] theorem padWrite_pulsecnt (l : Line) (v : Byte) : (padWrite l v s).pulsecnt = s.pulsecnt := rfl
@[simp] theorem padWrite_addrb (l : Line) (v : Byte) : (padWrite l v s).addrb = s.addrb := rfl
@[simp] theorem padWrite_rw (l : Line) (v : Byte) : (padWrite l v s).rw = s.rw := rfl
@[simp] theorem padWrite_len (l : Line) (v : Byte) : (padWrite l v s).len = s.len := rfl
@[simp] theorem padWrite_force (l : Line) (v : Byte) : (padWrite l v s).force = s.force := rfl
@[simp] theorem padWrite_ackf (l : Line) (v : Byte) : (padWrite l v s).ackf = s.ackf := rfl
@[simp] theorem padWrite_sbit (l : Line) (v : Byte) : (padWrite l v s).sbit = s.sbit := rfl
@[simp] theorem padWrite_err (l : Line) (v : Byte) : (padWrite l v s).err = s.err := rfl
@[simp] theorem padWrite_fsm (l : Line) (v : Byte) : (padWrite l v s).fsm = s.fsm := rfl
@[simp] theorem padWrite_phase (l : Line) (v : Byte) : (padWrite l v s).phase = s.phase := rfl
@[simp] theorem padWrite_cur (l : Line) (v : Byte) : (padWrite l v s).cur = s.cur := rfl
@[simp] theorem padWrite_stopStatus (l : Line) (v : Byte) : (padWrite l v s).stopStatus = s.stopStatus := rfl
@[simp] theorem padWrite_txbuf (l : Line) (v : Byte) : (padWrite l v s).txbuf = s.txbuf := rfl
@[simp] theorem padWrite_rxbuf (l : Line) (v : Byte) : (padWrite l v s).rxbuf = s.rxbuf := rfl
@[simp] theorem padWrite_rsp (l : Line) (v : Byte) : (padWrite l v s).rsp = s.rsp := rfl
@[simp] theorem padWrite_trace (l : Line) (v : Byte) : (padWrite l v s).trace = s.trace ++ [.done l v] := rfl
@[simp] theorem padWrite_epoch (l : Line) (v : Byte) : (padWrite l v s).epoch = s.epoch := rfl
@[simp] theorem padWrite_world (l : Line) (v : Byte) : (padWrite l v s).world = s.world.setOut v := rfl

/-! ### padDir -/

@[simp] theorem padDir_cfg (l : Line) (m d : Byte) : (padDir l m d s).cfg = s.cfg := rfl
@[simp] theorem padDir_portOut (l : Line) (m d : Byte) : (padDir l m d s).portOut = s.portOut := rfl
@[simp] theorem padDir_portDir (l : Line) (m d : Byte) : (padDir l m d s).portDir = maskedWrite s.portDir m d := rfl
@[simp] theorem padDir_shreg (l : Line) (m d : Byte) : (padDir l m d s).shreg = s.shreg := rfl
@[simp] theorem padDir_bitcnt (l : Line) (m d : Byte) : (padDir l m d s).bitcnt = s.bitcnt := rfl
@[simp] theorem padDir_bytecnt (l : Line) (m d : Byte) : (padDir l m d s).bytecnt = s.bytecnt := rfl
@[simp] theorem padDir_pulsecnt (l : Line) (m d : Byte) : (padDir l m d s).pulsecnt = s.pulsecnt := rfl
@[simp] theorem padDir_addrb (l : Line) (m d : Byte) : (padDir l m d s).addrb = s.addrb := rfl
@[simp] theorem padDir_rw (l : Line) (m d : Byte) : (padDir l m d s).rw = s.rw := rfl
@[simp] theorem padDir_len (l : Line) (m d : Byte) : (padDir l m d s).len = s.len := rfl
@[simp] theorem padDir_force (l : Line) (m d : Byte) : (padDir l m d s).force = s.force := rfl
@[simp] theorem padDir_ackf (l : Line) (m d : Byte) : (padDir l m d s).ackf = s.ackf := rfl
@[simp] theorem padDir_sbit (l : Line) (m d : Byte) : (padDir l m d s).sbit = s.sbit := rfl
@[simp] theorem padDir_err (l : Line) (m d : Byte) : (padDir l m d s).err = s.err := rfl
@[simp] theorem padDir_fsm (l : Line) (m d : Byte) : (padDir l m d s).fsm = s.fsm := rfl
@[simp] theorem padDir_phase (l : Line) (m d : Byte) : (padDir l m d s).phase = s.phase := rfl
@[simp] theorem padDir_cur (l : Line) (m d : Byte) : (padDir l m d s).cur = s.cur := rfl
@[simp] theorem padDir_stopStatus (l : Line) (m d : Byte) : (padDir l m d s).stopStatus = s.stopStatus := rfl
@[simp] theorem padDir_txbuf (l : Line) (m d : Byte) : (padDir l m d s).txbuf = s.txbuf := rfl
@[simp] theorem padDir_rxbuf (l : Line) (m d : Byte) : (padDir l m d s).rxbuf = s.rxbuf := rfl
@[simp] theorem padDir_rsp (l : Line) (m d : Byte) : (padDir l m d s).rsp = s.rsp := rfl
@[simp] theorem padDir_trace (l : Line) (m d : Byte) : (padDir l m d s).trace = s.trace ++ [.done l (maskedWrite s.portDir m d)] := rfl
@[simp] theorem padDir_epoch (l : Line) (m d : Byte) : (padDir l m d s).epoch = s.epoch := rfl
@[simp] theorem padDir_world (l : Line) (m d : Byte) : (padDir l m d s).world = s.world.setDir (maskedWrite s.portDir m d) := rfl

/-! ### padRead -/

@[simp] theorem padRead_cfg (l : Line) : (padRead l s).cfg = s.cfg := rfl
@[simp] theorem padRead_portOut (l : Line) : (padRead l s).portOut = s.portOut := rfl
@[simp] theorem padRead_portDir (l : Line) : (padRead l s).portDir = s.portDir := rfl
@[simp] theorem padRead_shreg (l : Line) : (padRead l s).shreg = s.shreg := rfl
@[simp] theorem padRead_bitcnt (l : Line) : (padRead l s).bitcnt = s.bitcnt := rfl
@[simp] theorem padRead_bytecnt (l : Line) : (padRead l s).bytecnt = s.bytecnt := rfl
@[simp] theorem padRead_pulsecnt (l : Line) : (padRead l s).pulsecnt = s.pulsecnt := rfl
@[simp] theorem padRead_addrb (l : Line) : (padRead l s).addrb = s.addrb := rfl
@[simp] theorem padRead_rw (l : Line) : (padRead l s).rw = s.rw := rfl
@[simp] theorem padRead_len (l : Line) : (padRead l s).len = s.len := rfl
@[simp] theorem padRead_force (l : Line) : (padRead l s).force = s.force := rfl
@[simp] theorem padRead_ackf (l : Line) : (padRead l s).ackf = s.ackf := rfl
@[simp] theorem padRead_sbit (l : Line) : (padRead l s).sbit = testBit s.world.portIn s.cfg.sdaBit := rfl
@[simp] theorem padRead_err (l : Line) : (padRead l s).err = s.err := rfl
@[simp] theorem padRead_fsm (l : Line) : (padRead l s).fsm = s.fsm := rfl
@[simp] theorem padRead_phase (l : Line) : (padRead l s).phase = s.phase := rfl
@[simp] theorem padRead_cur (l : Line) : (padRead l s).cur = s.cur := rfl
@[simp] theorem padRead_stopStatus (l : Line) : (padRead l s).stopStatus = s.stopStatus := rfl
@[simp] theorem padRead_txbuf (l : Line) : (padRead l s).txbuf = s.txbuf := rfl
@[simp] theorem padRead_rxbuf (l : Line) : (padRead l s).rxbuf = s.rxbuf := rfl
@[simp] theorem padRead_rsp (l : Line) : (padRead l s).rsp = s.rsp := rfl
@[simp] theorem padRead_trace (l : Line) : (padRead l s).trace = s.trace ++ [.done l s.world.portIn] := rfl
@[simp] theorem padRead_epoch (l : Line) : (padRead l s).epoch = s.epoch := rfl
@[simp] theorem padRead_world (l : Line) : (padRead l s).world = s.world.dropIn := rfl

/-! ### respond -/

@[simp] theorem respond_cfg (st : Status) (c v : Byte) : (respond st c v s).cfg = s.cfg := rfl
@[simp] theorem respond_portOut (st : Status) (c v : Byte) : (respond st c v s).portOut = s.portOut := rfl
@[simp] theorem respond_portDir (st : Status) (c v : Byte) : (respond st c v s).portDir = s.portDir := rfl
@[simp] theorem respond_shreg (st : Status) (c v : Byte) : (respond st c v s).shreg = s.shreg := rfl
@[simp] theorem respond_bitcnt (st : Status) (c v : Byte) : (respond st c v s).bitcnt = s.bitcnt := rfl
@[simp] theorem respond_bytecnt (st : Status) (c v : Byte) : (respond st c v s).bytecnt = s.bytecnt := rfl
@[simp] theorem respond_pulsecnt (st : Status) (c v : Byte) : (respond st c v s).pulsecnt = s.pulsecnt := rfl
@[simp] theorem respond_addrb (st : Status) (c v : Byte) : (respond st c v s).addrb = s.addrb := rfl
@[simp] theorem respond_rw (st : Status) (c v : Byte) : (respond st c v s).rw = s.rw := rfl
@[simp] theorem respond_len (st : Status) (c v : Byte) : (respond st c v s).len = s.len := rfl
@[simp] theorem respond_force (st : Status) (c v : Byte) : (respond st c v s).force = s.force := rfl
@[simp] theorem respond_ackf (st : Status) (c v : Byte) : (respond st c v s).ackf = s.ackf := rfl
@[simp] theorem respond_sbit (st : Status) (c v : Byte) : (respond st c v s).sbit = s.sbit := rfl
@[simp] theorem respond_err (st : Status) (c v : Byte) : (respond st c v s).err = st.code := rfl
@[simp] theorem respond_fsm (st : Status) (c v : Byte) : (respond st c v s).fsm = .idle := rfl
@[simp] theorem respond_phase (st : Status) (c v : Byte) : (respond st c v s).phase = 0 := rfl
@[simp] theorem respond_cur (st : Status) (c v : Byte) : (respond st c v s).cur = none := rfl
@[simp] theorem respond_stopStatus (st : Status) (c v : Byte) : (respond st c v s).stopStatus = s.stopStatus := rfl
@[simp] theorem respond_txbuf (st : Status) (c v : Byte) : (respond st c v s).txbuf = s.txbuf := rfl
@[simp] theorem respond_rxbuf (st : Status) (c v : Byte) : (respond st c v s).rxbuf = s.rxbuf := rfl
@[simp] theorem respond_rsp (st : Status) (c v : Byte) : (respond st c v s).rsp = some (response st c v) := rfl
@[simp] theorem respond_trace (st : Status) (c v : Byte) : (respond st c v s).trace = s.trace := rfl
@[simp] theorem respond_epoch (st : Status) (c v : Byte) : (respond st c v s).epoch = s.epoch := rfl
@[simp] theorem respond_world (st : Status) (c v : Byte) : (respond st c v s).world = s.world := rfl

/-! ### illegalCmd -/

@[simp] theorem illegalCmd_cfg : (illegalCmd s).cfg = s.cfg := rfl
@[simp] theorem illegalCmd_portOut : (illegalCmd s).portOut = s.portOut := rfl
@[simp] theorem illegalCmd_portDir : (illegalCmd s).portDir = s.portDir := rfl
@[simp] theorem illegalCmd_shreg : (illegalCmd s).shreg = s.shreg := rfl
@[simp] theorem illegalCmd_bitcnt : (illegalCmd s).bitcnt = s.bitcnt := rfl
@[simp] theorem illegalCmd_bytecnt : (illegalCmd s).bytecnt = s.bytecnt := rfl
@[simp] theorem illegalCmd_pulsecnt : (illegalCmd s).pulsecnt = s.pulsecnt := rfl
@[simp] theorem illegalCmd_addrb : (illegalCmd s).addrb = s.addrb := rfl
@[simp] theorem illegalCmd_rw : (illegalCmd s).rw = s.rw := rfl
@[simp] theorem illegalCmd_len : (illegalCmd s).len = s.len := rfl
@[simp] theorem illegalCmd_force : (illegalCmd s).force = s.force := rfl
@[simp] theorem illegalCmd_ackf : (illegalCmd s).ackf = s.ackf := rfl
@[simp] theorem illegalCmd_sbit : (illegalCmd s).sbit = s.sbit := rfl
@[simp] theorem illegalCmd_err : (illegalCmd s).err = Status.illegalCmd.code := rfl
@[simp] theorem illegalCmd_fsm : (illegalCmd s).fsm = s.fsm := rfl
@[simp] theorem illegalCmd_phase : (illegalCmd s).phase = s.phase := rfl
@[simp] theorem illegalCmd_cur : (illegalCmd s).cur = s.cur := rfl
@[simp] theorem illegalCmd_stopStatus : (illegalCmd s).stopStatus = s.stopStatus := rfl
@[simp] theorem illegalCmd_txbuf : (illegalCmd s).txbuf = s.txbuf := rfl
@[simp] theorem illegalCmd_rxbuf : (illegalCmd s).rxbuf = s.rxbuf := rfl
@[simp] theorem illegalCmd_rsp : (illegalCmd s).rsp = some (response .illegalCmd 0 0) := rfl
@[simp] theorem illegalCmd_trace : (illegalCmd s).trace = s.trace := rfl
@[simp] theorem illegalCmd_epoch : (illegalCmd s).epoch = s.epoch := rfl
@[simp] theorem illegalCmd_world : (illegalCmd s).world = s.world := rfl

/-! ### takeResponse -/

@[simp] theorem takeResponse_cfg : (takeResponse s).cfg = s.cfg := rfl
@[simp] theorem takeResponse_portOut : (takeResponse s).portOut = s.portOut := rfl
@[simp] theorem takeResponse_portDir : (takeResponse s).portDir = s.portDir := rfl
@[simp] theorem takeResponse_shreg : (takeResponse s).shreg = s.shreg := rfl
@[simp] theorem takeResponse_bitcnt : (takeResponse s).bitcnt = s.bitcnt := rfl
@[simp] theorem takeResponse_bytecnt : (takeResponse s).bytecnt = s.bytecnt := rfl
@[simp] theorem takeResponse_pulsecnt : (takeResponse s).pulsecnt = s.pulsecnt := rfl
@[simp] theorem takeResponse_addrb : (takeResponse s).addrb = s.addrb := rfl
@[simp] theorem takeResponse_rw : (takeResponse s).rw = s.rw := rfl
@[simp] theorem takeResponse_len : (takeResponse s).len = s.len := rfl
@[simp] theorem takeResponse_force : (takeResponse s).force = s.force := rfl
@[simp] theorem takeResponse_ackf : (takeResponse s).ackf = s.ackf := rfl
@[simp] theorem takeResponse_sbit : (takeResponse s).sbit = s.sbit := rfl
@[simp] theorem takeResponse_err : (takeResponse s).err = s.err := rfl
@[simp] theorem takeResponse_fsm : (takeResponse s).fsm = s.fsm := rfl
@[simp] theorem takeResponse_phase : (takeResponse s).phase = s.phase := rfl
@[simp] theorem takeResponse_cur : (takeResponse s).cur = s.cur := rfl
@[simp] theorem takeResponse_stopStatus : (takeResponse s).stopStatus = s.stopStatus := rfl
@[simp] theorem takeResponse_txbuf : (takeResponse s).txbuf = s.txbuf := rfl
@[simp] theorem takeResponse_rxbuf : (takeResponse s).rxbuf = s.rxbuf := rfl
@[simp] theorem takeResponse_rsp : (takeResponse s).rsp = none := rfl
@[simp] theorem takeResponse_trace : (takeResponse s).trace = s.trace := rfl
@[simp] theorem takeResponse_epoch : (takeResponse s).epoch = s.epoch := rfl
@[simp] theorem takeResponse_world : (takeResponse s).world = s.world := rfl

/-! ### accept -/

@[simp] theorem accept_cfg (i : Instr) (f : Fsm) : (accept i f s).cfg = s.cfg := rfl
@[simp] theorem accept_portOut (i : Instr) (f : Fsm) : (accept i f s).portOut = s.portOut := rfl
@[simp] theorem accept_portDir (i : Instr) (f : Fsm) : (accept i f s).portDir = s.portDir := rfl
@[simp] theorem accept_shreg (i : Instr) (f : Fsm) : (accept i f s).shreg = s.shreg := rfl
@[simp] theorem accept_bitcnt (i : Instr) (f : Fsm) : (accept i f s).bitcnt = s.bitcnt := rfl
@[simp] theorem accept_bytecnt (i : Instr) (f : Fsm) : (accept i f s).bytecnt = s.bytecnt := rfl
@[simp] theorem accept_pulsecnt (i : Instr) (f : Fsm) : (accept i f s).pulsecnt = s.pulsecnt := rfl
@[simp] theorem accept_addrb (i : Instr) (f : Fsm) : (accept i f s).addrb = s.addrb := rfl
@[simp] theorem accept_rw (i : Instr) (f : Fsm) : (accept i f s).rw = s.rw := rfl
@[simp] theorem accept_len (i : Instr) (f : Fsm) : (accept i f s).len = s.len := rfl
@[simp] theorem accept_force (i : Instr) (f : Fsm) : (accept i f s).force = s.force := rfl
@[simp] theorem accept_ackf (i : Instr) (f : Fsm) : (accept i f s).ackf = s.ackf := rfl
@[simp] theorem accept_sbit (i : Instr) (f : Fsm) : (accept i f s).sbit = s.sbit := rfl
@[simp] theorem accept_err (i : Instr) (f : Fsm) : (accept i f s).err = s.err := rfl
@[simp] theorem accept_fsm (i : Instr) (f : Fsm) : (accept i f s).fsm = f := rfl
@[simp] theorem accept_phase (i : Instr) (f : Fsm) : (accept i f s).phase = 0 := rfl
@[simp] theorem accept_cur (i : Instr) (f : Fsm) : (accept i f s).cur = some i := rfl
@[simp] theorem accept_stopStatus (i : Instr) (f : Fsm) : (accept i f s).stopStatus = s.stopStatus := rfl
@[simp] theorem accept_txbuf (i : Instr) (f : Fsm) : (accept i f s).txbuf = s.txbuf := rfl
@[simp] theorem accept_rxbuf (i : Instr) (f : Fsm) : (accept i f s).rxbuf = s.rxbuf := rfl
@[simp] theorem accept_rsp (i : Instr) (f : Fsm) : (accept i f s).rsp = s.rsp := rfl
@[simp] theorem accept_trace (i : Instr) (f : Fsm) : (accept i f s).trace = s.trace := rfl
@[simp] theorem accept_epoch (i : Instr) (f : Fsm) : (accept i f s).epoch = s.epoch := rfl
@[simp] theorem accept_world (i : Instr) (f : Fsm) : (accept i f s).world = s.world := rfl

/-! ### latchTransfer -/

@[simp] theorem latchTransfer_cfg (a : BitVec 7) (r : Bool) (n : Byte) : (latchTransfer a r n s).cfg = s.cfg := rfl
@[simp] theorem latchTransfer_portOut (a : BitVec 7) (r : Bool) (n : Byte) : (latchTransfer a r n s).portOut = s.portOut := rfl
@[simp] theorem latchTransfer_portDir (a : BitVec 7) (r : Bool) (n : Byte) : (latchTransfer a r n s).portDir = s.portDir := rfl
@[simp] theorem latchTransfer_shreg (a : BitVec 7) (r : Bool) (n : Byte) : (latchTransfer a r n s).shreg = s.shreg := rfl
@[simp] theorem latchTransfer_bitcnt (a : BitVec 7) (r : Bool) (n : Byte) : (latchTransfer a r n s).bitcnt = s.bitcnt := rfl
@[simp] theorem latchTransfer_bytecnt (a : BitVec 7) (r : Bool) (n : Byte) : (latchTransfer a r n s).bytecnt = 0 := rfl
@[simp] theorem latchTransfer_pulsecnt (a : BitVec 7) (r : Bool) (n : Byte) : (latchTransfer a r n s).pulsecnt = s.pulsecnt := rfl
@[simp] theorem latchTransfer_addrb (a : BitVec 7) (r : Bool) (n : Byte) : (latchTransfer a r n s).addrb = addressByte a r := rfl
@[simp] theorem latchTransfer_rw (a : BitVec 7) (r : Bool) (n : Byte) : (latchTransfer a r n s).rw = r := rfl
@[simp] theorem latchTransfer_len (a : BitVec 7) (r : Bool) (n : Byte) : (latchTransfer a r n s).len = n := rfl
@[simp] theorem latchTransfer_force (a : BitVec 7) (r : Bool) (n : Byte) : (latchTransfer a r n s).force = s.force := rfl
@[simp] theorem latchTransfer_ackf (a : BitVec 7) (r : Bool) (n : Byte) : (latchTransfer a r n s).ackf = s.ackf := rfl
@[simp] theorem latchTransfer_sbit (a : BitVec 7) (r : Bool) (n : Byte) : (latchTransfer a r n s).sbit = s.sbit := rfl
@[simp] theorem latchTransfer_err (a : BitVec 7) (r : Bool) (n : Byte) : (latchTransfer a r n s).err = s.err := rfl
@[simp] theorem latchTransfer_fsm (a : BitVec 7) (r : Bool) (n : Byte) : (latchTransfer a r n s).fsm = s.fsm := rfl
@[simp] theorem latchTransfer_phase (a : BitVec 7) (r : Bool) (n : Byte) : (latchTransfer a r n s).phase = s.phase := rfl
@[simp] theorem latchTransfer_cur (a : BitVec 7) (r : Bool) (n : Byte) : (latchTransfer a r n s).cur = s.cur := rfl
@[simp] theorem latchTransfer_stopStatus (a : BitVec 7) (r : Bool) (n : Byte) : (latchTransfer a r n s).stopStatus = s.stopStatus := rfl
@[simp] theorem latchTransfer_txbuf (a : BitVec 7) (r : Bool) (n : Byte) : (latchTransfer a r n s).txbuf = s.txbuf := rfl
@[simp] theorem latchTransfer_rxbuf (a : BitVec 7) (r : Bool) (n : Byte) : (latchTransfer a r n s).rxbuf = s.rxbuf := rfl
@[simp] theorem latchTransfer_rsp (a : BitVec 7) (r : Bool) (n : Byte) : (latchTransfer a r n s).rsp = s.rsp := rfl
@[simp] theorem latchTransfer_trace (a : BitVec 7) (r : Bool) (n : Byte) : (latchTransfer a r n s).trace = s.trace := rfl
@[simp] theorem latchTransfer_epoch (a : BitVec 7) (r : Bool) (n : Byte) : (latchTransfer a r n s).epoch = s.epoch := rfl
@[simp] theorem latchTransfer_world (a : BitVec 7) (r : Bool) (n : Byte) : (latchTransfer a r n s).world = s.world := rfl

/-! ### latchRecovery -/

@[simp] theorem latchRecovery_cfg (f : Bool) : (latchRecovery f s).cfg = s.cfg := rfl
@[simp] theorem latchRecovery_portOut (f : Bool) : (latchRecovery f s).portOut = s.portOut := rfl
@[simp] theorem latchRecovery_portDir (f : Bool) : (latchRecovery f s).portDir = s.portDir := rfl
@[simp] theorem latchRecovery_shreg (f : Bool) : (latchRecovery f s).shreg = s.shreg := rfl
@[simp] theorem latchRecovery_bitcnt (f : Bool) : (latchRecovery f s).bitcnt = s.bitcnt := rfl
@[simp] theorem latchRecovery_bytecnt (f : Bool) : (latchRecovery f s).bytecnt = s.bytecnt := rfl
@[simp] theorem latchRecovery_pulsecnt (f : Bool) : (latchRecovery f s).pulsecnt = 0 := rfl
@[simp] theorem latchRecovery_addrb (f : Bool) : (latchRecovery f s).addrb = s.addrb := rfl
@[simp] theorem latchRecovery_rw (f : Bool) : (latchRecovery f s).rw = s.rw := rfl
@[simp] theorem latchRecovery_len (f : Bool) : (latchRecovery f s).len = s.len := rfl
@[simp] theorem latchRecovery_force (f : Bool) : (latchRecovery f s).force = f := rfl
@[simp] theorem latchRecovery_ackf (f : Bool) : (latchRecovery f s).ackf = s.ackf := rfl
@[simp] theorem latchRecovery_sbit (f : Bool) : (latchRecovery f s).sbit = s.sbit := rfl
@[simp] theorem latchRecovery_err (f : Bool) : (latchRecovery f s).err = s.err := rfl
@[simp] theorem latchRecovery_fsm (f : Bool) : (latchRecovery f s).fsm = s.fsm := rfl
@[simp] theorem latchRecovery_phase (f : Bool) : (latchRecovery f s).phase = s.phase := rfl
@[simp] theorem latchRecovery_cur (f : Bool) : (latchRecovery f s).cur = s.cur := rfl
@[simp] theorem latchRecovery_stopStatus (f : Bool) : (latchRecovery f s).stopStatus = s.stopStatus := rfl
@[simp] theorem latchRecovery_txbuf (f : Bool) : (latchRecovery f s).txbuf = s.txbuf := rfl
@[simp] theorem latchRecovery_rxbuf (f : Bool) : (latchRecovery f s).rxbuf = s.rxbuf := rfl
@[simp] theorem latchRecovery_rsp (f : Bool) : (latchRecovery f s).rsp = s.rsp := rfl
@[simp] theorem latchRecovery_trace (f : Bool) : (latchRecovery f s).trace = s.trace := rfl
@[simp] theorem latchRecovery_epoch (f : Bool) : (latchRecovery f s).epoch = s.epoch := rfl
@[simp] theorem latchRecovery_world (f : Bool) : (latchRecovery f s).world = s.world := rfl

/-! ### loadByte -/

@[simp] theorem loadByte_cfg (v : Byte) : (loadByte v s).cfg = s.cfg := rfl
@[simp] theorem loadByte_portOut (v : Byte) : (loadByte v s).portOut = s.portOut := rfl
@[simp] theorem loadByte_portDir (v : Byte) : (loadByte v s).portDir = s.portDir := rfl
@[simp] theorem loadByte_shreg (v : Byte) : (loadByte v s).shreg = v := rfl
@[simp] theorem loadByte_bitcnt (v : Byte) : (loadByte v s).bitcnt = 8 := rfl
@[simp] theorem loadByte_bytecnt (v : Byte) : (loadByte v s).bytecnt = s.bytecnt := rfl
@[simp] theorem loadByte_pulsecnt (v : Byte) : (loadByte v s).pulsecnt = s.pulsecnt := rfl
@[simp] theorem loadByte_addrb (v : Byte) : (loadByte v s).addrb = s.addrb := rfl
@[simp] theorem loadByte_rw (v : Byte) : (loadByte v s).rw = s.rw := rfl
@[simp] theorem loadByte_len (v : Byte) : (loadByte v s).len = s.len := rfl
@[simp] theorem loadByte_force (v : Byte) : (loadByte v s).force = s.force := rfl
@[simp] theorem loadByte_ackf (v : Byte) : (loadByte v s).ackf = s.ackf := rfl
@[simp] theorem loadByte_sbit (v : Byte) : (loadByte v s).sbit = s.sbit := rfl
@[simp] theorem loadByte_err (v : Byte) : (loadByte v s).err = s.err := rfl
@[simp] theorem loadByte_fsm (v : Byte) : (loadByte v s).fsm = s.fsm := rfl
@[simp] theorem loadByte_phase (v : Byte) : (loadByte v s).phase = s.phase := rfl
@[simp] theorem loadByte_cur (v : Byte) : (loadByte v s).cur = s.cur := rfl
@[simp] theorem loadByte_stopStatus (v : Byte) : (loadByte v s).stopStatus = s.stopStatus := rfl
@[simp] theorem loadByte_txbuf (v : Byte) : (loadByte v s).txbuf = s.txbuf := rfl
@[simp] theorem loadByte_rxbuf (v : Byte) : (loadByte v s).rxbuf = s.rxbuf := rfl
@[simp] theorem loadByte_rsp (v : Byte) : (loadByte v s).rsp = s.rsp := rfl
@[simp] theorem loadByte_trace (v : Byte) : (loadByte v s).trace = s.trace := rfl
@[simp] theorem loadByte_epoch (v : Byte) : (loadByte v s).epoch = s.epoch := rfl
@[simp] theorem loadByte_world (v : Byte) : (loadByte v s).world = s.world := rfl

/-! ### shiftOut -/

@[simp] theorem shiftOut_cfg : (shiftOut s).cfg = s.cfg := rfl
@[simp] theorem shiftOut_portOut : (shiftOut s).portOut = s.portOut := rfl
@[simp] theorem shiftOut_portDir : (shiftOut s).portDir = s.portDir := rfl
@[simp] theorem shiftOut_shreg : (shiftOut s).shreg = s.shreg <<< 1 := rfl
@[simp] theorem shiftOut_bitcnt : (shiftOut s).bitcnt = s.bitcnt - 1 := rfl
@[simp] theorem shiftOut_bytecnt : (shiftOut s).bytecnt = s.bytecnt := rfl
@[simp] theorem shiftOut_pulsecnt : (shiftOut s).pulsecnt = s.pulsecnt := rfl
@[simp] theorem shiftOut_addrb : (shiftOut s).addrb = s.addrb := rfl
@[simp] theorem shiftOut_rw : (shiftOut s).rw = s.rw := rfl
@[simp] theorem shiftOut_len : (shiftOut s).len = s.len := rfl
@[simp] theorem shiftOut_force : (shiftOut s).force = s.force := rfl
@[simp] theorem shiftOut_ackf : (shiftOut s).ackf = s.ackf := rfl
@[simp] theorem shiftOut_sbit : (shiftOut s).sbit = s.sbit := rfl
@[simp] theorem shiftOut_err : (shiftOut s).err = s.err := rfl
@[simp] theorem shiftOut_fsm : (shiftOut s).fsm = s.fsm := rfl
@[simp] theorem shiftOut_phase : (shiftOut s).phase = s.phase := rfl
@[simp] theorem shiftOut_cur : (shiftOut s).cur = s.cur := rfl
@[simp] theorem shiftOut_stopStatus : (shiftOut s).stopStatus = s.stopStatus := rfl
@[simp] theorem shiftOut_txbuf : (shiftOut s).txbuf = s.txbuf := rfl
@[simp] theorem shiftOut_rxbuf : (shiftOut s).rxbuf = s.rxbuf := rfl
@[simp] theorem shiftOut_rsp : (shiftOut s).rsp = s.rsp := rfl
@[simp] theorem shiftOut_trace : (shiftOut s).trace = s.trace := rfl
@[simp] theorem shiftOut_epoch : (shiftOut s).epoch = s.epoch := rfl
@[simp] theorem shiftOut_world : (shiftOut s).world = s.world := rfl

/-! ### shiftIn -/

@[simp] theorem shiftIn_cfg : (shiftIn s).cfg = s.cfg := rfl
@[simp] theorem shiftIn_portOut : (shiftIn s).portOut = s.portOut := rfl
@[simp] theorem shiftIn_portDir : (shiftIn s).portDir = s.portDir := rfl
@[simp] theorem shiftIn_shreg : (shiftIn s).shreg = shiftInBit s.shreg s.sbit := rfl
@[simp] theorem shiftIn_bitcnt : (shiftIn s).bitcnt = s.bitcnt - 1 := rfl
@[simp] theorem shiftIn_bytecnt : (shiftIn s).bytecnt = s.bytecnt := rfl
@[simp] theorem shiftIn_pulsecnt : (shiftIn s).pulsecnt = s.pulsecnt := rfl
@[simp] theorem shiftIn_addrb : (shiftIn s).addrb = s.addrb := rfl
@[simp] theorem shiftIn_rw : (shiftIn s).rw = s.rw := rfl
@[simp] theorem shiftIn_len : (shiftIn s).len = s.len := rfl
@[simp] theorem shiftIn_force : (shiftIn s).force = s.force := rfl
@[simp] theorem shiftIn_ackf : (shiftIn s).ackf = s.ackf := rfl
@[simp] theorem shiftIn_sbit : (shiftIn s).sbit = s.sbit := rfl
@[simp] theorem shiftIn_err : (shiftIn s).err = s.err := rfl
@[simp] theorem shiftIn_fsm : (shiftIn s).fsm = s.fsm := rfl
@[simp] theorem shiftIn_phase : (shiftIn s).phase = s.phase := rfl
@[simp] theorem shiftIn_cur : (shiftIn s).cur = s.cur := rfl
@[simp] theorem shiftIn_stopStatus : (shiftIn s).stopStatus = s.stopStatus := rfl
@[simp] theorem shiftIn_txbuf : (shiftIn s).txbuf = s.txbuf := rfl
@[simp] theorem shiftIn_rxbuf : (shiftIn s).rxbuf = s.rxbuf := rfl
@[simp] theorem shiftIn_rsp : (shiftIn s).rsp = s.rsp := rfl
@[simp] theorem shiftIn_trace : (shiftIn s).trace = s.trace := rfl
@[simp] theorem shiftIn_epoch : (shiftIn s).epoch = s.epoch := rfl
@[simp] theorem shiftIn_world : (shiftIn s).world = s.world := rfl

/-! ### detectAck -/

@[simp] theorem detectAck_cfg : (detectAck s).cfg = s.cfg := rfl
@[simp] theorem detectAck_portOut : (detectAck s).portOut = s.portOut := rfl
@[simp] theorem detectAck_portDir : (detectAck s).portDir = s.portDir := rfl
@[simp] theorem detectAck_shreg : (detectAck s).shreg = s.shreg := rfl
@[simp] theorem detectAck_bitcnt : (detectAck s).bitcnt = s.bitcnt := rfl
@[simp] theorem detectAck_bytecnt : (detectAck s).bytecnt = s.bytecnt := rfl
@[simp] theorem detectAck_pulsecnt : (detectAck s).pulsecnt = s.pulsecnt := rfl
@[simp] theorem detectAck_addrb : (detectAck s).addrb = s.addrb := rfl
@[simp] theorem detectAck_rw : (detectAck s).rw = s.rw := rfl
@[simp] theorem detectAck_len : (detectAck s).len = s.len := rfl
@[simp] theorem detectAck_force : (detectAck s).force = s.force := rfl
@[simp] theorem detectAck_ackf : (detectAck s).ackf = ackOf s.sbit := rfl
@[simp] theorem detectAck_sbit : (detectAck s).sbit = s.sbit := rfl
@[simp] theorem detectAck_err : (detectAck s).err = s.err := rfl
@[simp] theorem detectAck_fsm : (detectAck s).fsm = s.fsm := rfl
@[simp] theorem detectAck_phase : (detectAck s).phase = s.phase := rfl
@[simp] theorem detectAck_cur : (detectAck s).cur = s.cur := rfl
@[simp] theorem detectAck_stopStatus : (detectAck s).stopStatus = s.stopStatus := rfl
@[simp] theorem detectAck_txbuf : (detectAck s).txbuf = s.txbuf := rfl
@[simp] theorem detectAck_rxbuf : (detectAck s).rxbuf = s.rxbuf := rfl
@[simp] theorem detectAck_rsp : (detectAck s).rsp = s.rsp := rfl
@[simp] theorem detectAck_trace : (detectAck s).trace = s.trace := rfl
@[simp] theorem detectAck_epoch : (detectAck s).epoch = s.epoch := rfl
@[simp] theorem detectAck_world : (detectAck s).world = s.world := rfl

/-! ### enter -/

@[simp] theorem enter_cfg (f : Fsm) : (enter f s).cfg = s.cfg := rfl
@[simp] theorem enter_portOut (f : Fsm) : (enter f s).portOut = s.portOut := rfl
@[simp] theorem enter_portDir (f : Fsm) : (enter f s).portDir = s.portDir := rfl
@[simp] theorem enter_shreg (f : Fsm) : (enter f s).shreg = s.shreg := rfl
@[simp] theorem enter_bitcnt (f : Fsm) : (enter f s).bitcnt = s.bitcnt := rfl
@[simp] theorem enter_bytecnt (f : Fsm) : (enter f s).bytecnt = s.bytecnt := rfl
@[simp] theorem enter_pulsecnt (f : Fsm) : (enter f s).pulsecnt = s.pulsecnt := rfl
@[simp] theorem enter_addrb (f : Fsm) : (enter f s).addrb = s.addrb := rfl
@[simp] theorem enter_rw (f : Fsm) : (enter f s).rw = s.rw := rfl
@[simp] theorem enter_len (f : Fsm) : (enter f s).len = s.len := rfl
@[simp] theorem enter_force (f : Fsm) : (enter f s).force = s.force := rfl
@[simp] theorem enter_ackf (f : Fsm) : (enter f s).ackf = s.ackf := rfl
@[simp] theorem enter_sbit (f : Fsm) : (enter f s).sbit = s.sbit := rfl
@[simp] theorem enter_err (f : Fsm) : (enter f s).err = s.err := rfl
@[simp] theorem enter_fsm (f : Fsm) : (enter f s).fsm = f := rfl
@[simp] theorem enter_phase (f : Fsm) : (enter f s).phase = 0 := rfl
@[simp] theorem enter_cur (f : Fsm) : (enter f s).cur = s.cur := rfl
@[simp] theorem enter_stopStatus (f : Fsm) : (enter f s).stopStatus = s.stopStatus := rfl
@[simp] theorem enter_txbuf (f : Fsm) : (enter f s).txbuf = s.txbuf := rfl
@[simp] theorem enter_rxbuf (f : Fsm) : (enter f s).rxbuf = s.rxbuf := rfl
@[simp] theorem enter_rsp (f : Fsm) : (enter f s).rsp = s.rsp := rfl
@[simp] theorem enter_trace (f : Fsm) : (enter f s).trace = s.trace := rfl
@[simp] theorem enter_epoch (f : Fsm) : (enter f s).epoch = s.epoch := rfl
@[simp] theorem enter_world (f : Fsm) : (enter f s).world = s.world := rfl

/-! ### enterStop -/

@[simp] theorem enterStop_cfg (st : Status) : (enterStop st s).cfg = s.cfg := rfl
@[simp] theorem enterStop_portOut (st : Status) : (enterStop st s).portOut = s.portOut := rfl
@[simp] theorem enterStop_portDir (st : Status) : (enterStop st s).portDir = s.portDir := rfl
@[simp] theorem enterStop_shreg (st : Status) : (enterStop st s).shreg = s.shreg := rfl
@[simp] theorem enterStop_bitcnt (st : Status) : (enterStop st s).bitcnt = s.bitcnt := rfl
@[simp] theorem enterStop_bytecnt (st : Status) : (enterStop st s).bytecnt = s.bytecnt := rfl
@[simp] theorem enterStop_pulsecnt (st : Status) : (enterStop st s).pulsecnt = s.pulsecnt := rfl
@[simp] theorem enterStop_addrb (st : Status) : (enterStop st s).addrb = s.addrb := rfl
@[simp] theorem enterStop_rw (st : Status) : (enterStop st s).rw = s.rw := rfl
@[simp] theorem enterStop_len (st : Status) : (enterStop st s).len = s.len := rfl
@[simp] theorem enterStop_force (st : Status) : (enterStop st s).force = s.force := rfl
@[simp] theorem enterStop_ackf (st : Status) : (enterStop st s).ackf = s.ackf := rfl
@[simp] theorem enterStop_sbit (st : Status) : (enterStop st s).sbit = s.sbit := rfl
@[simp] theorem enterStop_err (st : Status) : (enterStop st s).err = s.err := rfl
@[simp] theorem enterStop_fsm (st : Status) : (enterStop st s).fsm = .stop := rfl
@[simp] theorem enterStop_phase (st : Status) : (enterStop st s).phase = 0 := rfl
@[simp] theorem enterStop_cur (st : Status) : (enterStop st s).cur = s.cur := rfl
@[simp] theorem enterStop_stopStatus (st : Status) : (enterStop st s).stopStatus = st := rfl
@[simp] theorem enterStop_txbuf (st : Status) : (enterStop st s).txbuf = s.txbuf := rfl
@[simp] theorem enterStop_rxbuf (st : Status) : (enterStop st s).rxbuf = s.rxbuf := rfl
@[simp] theorem enterStop_rsp (st : Status) : (enterStop st s).rsp = s.rsp := rfl
@[simp] theorem enterStop_trace (st : Status) : (enterStop st s).trace = s.trace := rfl
@[simp] theorem enterStop_epoch (st : Status) : (enterStop st s).epoch = s.epoch := rfl
@[simp] theorem enterStop_world (st : Status) : (enterStop st s).world = s.world := rfl

/-! ### setPhase -/

@[simp] theorem setPhase_cfg (p : Nat) : (setPhase p s).cfg = s.cfg := rfl
@[simp] theorem setPhase_portOut (p : Nat) : (setPhase p s).portOut = s.portOut := rfl
@[simp] theorem setPhase_portDir (p : Nat) : (setPhase p s).portDir = s.portDir := rfl
@[simp] theorem setPhase_shreg (p : Nat) : (setPhase p s).shreg = s.shreg := rfl
@[simp] theorem setPhase_bitcnt (p : Nat) : (setPhase p s).bitcnt = s.bitcnt := rfl
@[simp] theorem setPhase_bytecnt (p : Nat) : (setPhase p s).bytecnt = s.bytecnt := rfl
@[simp] theorem setPhase_pulsecnt (p : Nat) : (setPhase p s).pulsecnt = s.pulsecnt := rfl
@[simp] theorem setPhase_addrb (p : Nat) : (setPhase p s).addrb = s.addrb := rfl
@[simp] theorem setPhase_rw (p : Nat) : (setPhase p s).rw = s.rw := rfl
@[simp] theorem setPhase_len (p : Nat) : (setPhase p s).len = s.len := rfl
@[simp] theorem setPhase_force (p : Nat) : (setPhase p s).force = s.force := rfl
@[simp] theorem setPhase_ackf (p : Nat) : (setPhase p s).ackf = s.ackf := rfl
@[simp] theorem setPhase_sbit (p : Nat) : (setPhase p s).sbit = s.sbit := rfl
@[simp] theorem setPhase_err (p : Nat) : (setPhase p s).err = s.err := rfl
@[simp] theorem setPhase_fsm (p : Nat) : (setPhase p s).fsm = s.fsm := rfl
@[simp] theorem setPhase_phase (p : Nat) : (setPhase p s).phase = p := rfl
@[simp] theorem setPhase_cur (p : Nat) : (setPhase p s).cur = s.cur := rfl
@[simp] theorem setPhase_stopStatus (p : Nat) : (setPhase p s).stopStatus = s.stopStatus := rfl
@[simp] theorem setPhase_txbuf (p : Nat) : (setPhase p s).txbuf = s.txbuf := rfl
@[simp] theorem setPhase_rxbuf (p : Nat) : (setPhase p s).rxbuf = s.rxbuf := rfl
@[simp] theorem setPhase_rsp (p : Nat) : (setPhase p s).rsp = s.rsp := rfl
@[simp] theorem setPhase_trace (p : Nat) : (setPhase p s).trace = s.trace := rfl
@[simp] theorem setPhase_epoch (p : Nat) : (setPhase p s).epoch = s.epoch := rfl
@[simp] theorem setPhase_world (p : Nat) : (setPhase p s).world = s.world := rfl

/-! ### addByte -/

@[simp] theorem addByte_cfg : (addByte s).cfg = s.cfg := rfl
@[simp] theorem addByte_portOut : (addByte s).portOut = s.portOut := rfl
@[simp] theorem addByte_portDir : (addByte s).portDir = s.portDir := rfl
@[simp] theorem addByte_shreg : (addByte s).shreg = s.shreg := rfl
@[simp] theorem addByte_bitcnt : (addByte s).bitcnt = s.bitcnt := rfl
@[simp] theorem addByte_bytecnt : (addByte s).bytecnt = s.bytecnt + 1 := rfl
@[simp] theorem addByte_pulsecnt : (addByte s).pulsecnt = s.pulsecnt := rfl
@[simp] theorem addByte_addrb : (addByte s).addrb = s.addrb := rfl
@[simp] theorem addByte_rw : (addByte s).rw = s.rw := rfl
@[simp] theorem addByte_len : (addByte s).len = s.len := rfl
@[simp] theorem addByte_force : (addByte s).force = s.force := rfl
@[simp] theorem addByte_ackf : (addByte s).ackf = s.ackf := rfl
@[simp] theorem addByte_sbit : (addByte s).sbit = s.sbit := rfl
@[simp] theorem addByte_err : (addByte s).err = s.err := rfl
@[simp] theorem addByte_fsm : (addByte s).fsm = s.fsm := rfl
@[simp] theorem addByte_phase : (addByte s).phase = s.phase := rfl
@[simp] theorem addByte_cur : (addByte s).cur = s.cur := rfl
@[simp] theorem addByte_stopStatus : (addByte s).stopStatus = s.stopStatus := rfl
@[simp] theorem addByte_txbuf : (addByte s).txbuf = s.txbuf := rfl
@[simp] theorem addByte_rxbuf : (addByte s).rxbuf = s.rxbuf := rfl
@[simp] theorem addByte_rsp : (addByte s).rsp = s.rsp := rfl
@[simp] theorem addByte_trace : (addByte s).trace = s.trace := rfl
@[simp] theorem addByte_epoch : (addByte s).epoch = s.epoch := rfl
@[simp] theorem addByte_world : (addByte s).world = s.world := rfl

/-! ### addPulse -/

@[simp] theorem addPulse_cfg : (addPulse s).cfg = s.cfg := rfl
@[simp] theorem addPulse_portOut : (addPulse s).portOut = s.portOut := rfl
@[simp] theorem addPulse_portDir : (addPulse s).portDir = s.portDir := rfl
@[simp] theorem addPulse_shreg : (addPulse s).shreg = s.shreg := rfl
@[simp] theorem addPulse_bitcnt : (addPulse s).bitcnt = s.bitcnt := rfl
@[simp] theorem addPulse_bytecnt : (addPulse s).bytecnt = s.bytecnt := rfl
@[simp] theorem addPulse_pulsecnt : (addPulse s).pulsecnt = s.pulsecnt + 1 := rfl
@[simp] theorem addPulse_addrb : (addPulse s).addrb = s.addrb := rfl
@[simp] theorem addPulse_rw : (addPulse s).rw = s.rw := rfl
@[simp] theorem addPulse_len : (addPulse s).len = s.len := rfl
@[simp] theorem addPulse_force : (addPulse s).force = s.force := rfl
@[simp] theorem addPulse_ackf : (addPulse s).ackf = s.ackf := rfl
@[simp] theorem addPulse_sbit : (addPulse s).sbit = s.sbit := rfl
@[simp] theorem addPulse_err : (addPulse s).err = s.err := rfl
@[simp] theorem addPulse_fsm : (addPulse s).fsm = s.fsm := rfl
@[simp] theorem addPulse_phase : (addPulse s).phase = s.phase := rfl
@[simp] theorem addPulse_cur : (addPulse s).cur = s.cur := rfl
@[simp] theorem addPulse_stopStatus : (addPulse s).stopStatus = s.stopStatus := rfl
@[simp] theorem addPulse_txbuf : (addPulse s).txbuf = s.txbuf := rfl
@[simp] theorem addPulse_rxbuf : (addPulse s).rxbuf = s.rxbuf := rfl
@[simp] theorem addPulse_rsp : (addPulse s).rsp = s.rsp := rfl
@[simp] theorem addPulse_trace : (addPulse s).trace = s.trace := rfl
@[simp] theorem addPulse_epoch : (addPulse s).epoch = s.epoch := rfl
@[simp] theorem addPulse_world : (addPulse s).world = s.world := rfl

/-! ### writeTx -/

@[simp] theorem writeTx_cfg (i v : Byte) : (writeTx i v s).cfg = s.cfg := rfl
@[simp] theorem writeTx_portOut (i v : Byte) : (writeTx i v s).portOut = s.portOut := rfl
@[simp] theorem writeTx_portDir (i v : Byte) : (writeTx i v s).portDir = s.portDir := rfl
@[simp] theorem writeTx_shreg (i v : Byte) : (writeTx i v s).shreg = s.shreg := rfl
@[simp] theorem writeTx_bitcnt (i v : Byte) : (writeTx i v s).bitcnt = s.bitcnt := rfl
@[simp] theorem writeTx_bytecnt (i v : Byte) : (writeTx i v s).bytecnt = s.bytecnt := rfl
@[simp] theorem writeTx_pulsecnt (i v : Byte) : (writeTx i v s).pulsecnt = s.pulsecnt := rfl
@[simp] theorem writeTx_addrb (i v : Byte) : (writeTx i v s).addrb = s.addrb := rfl
@[simp] theorem writeTx_rw (i v : Byte) : (writeTx i v s).rw = s.rw := rfl
@[simp] theorem writeTx_len (i v : Byte) : (writeTx i v s).len = s.len := rfl
@[simp] theorem writeTx_force (i v : Byte) : (writeTx i v s).force = s.force := rfl
@[simp] theorem writeTx_ackf (i v : Byte) : (writeTx i v s).ackf = s.ackf := rfl
@[simp] theorem writeTx_sbit (i v : Byte) : (writeTx i v s).sbit = s.sbit := rfl
@[simp] theorem writeTx_err (i v : Byte) : (writeTx i v s).err = s.err := rfl
@[simp] theorem writeTx_fsm (i v : Byte) : (writeTx i v s).fsm = s.fsm := rfl
@[simp] theorem writeTx_phase (i v : Byte) : (writeTx i v s).phase = s.phase := rfl
@[simp] theorem writeTx_cur (i v : Byte) : (writeTx i v s).cur = s.cur := rfl
@[simp] theorem writeTx_stopStatus (i v : Byte) : (writeTx i v s).stopStatus = s.stopStatus := rfl
@[simp] theorem writeTx_txbuf (i v : Byte) : (writeTx i v s).txbuf = s.txbuf.write i.toNat v := rfl
@[simp] theorem writeTx_rxbuf (i v : Byte) : (writeTx i v s).rxbuf = s.rxbuf := rfl
@[simp] theorem writeTx_rsp (i v : Byte) : (writeTx i v s).rsp = s.rsp := rfl
@[simp] theorem writeTx_trace (i v : Byte) : (writeTx i v s).trace = s.trace := rfl
@[simp] theorem writeTx_epoch (i v : Byte) : (writeTx i v s).epoch = s.epoch := rfl
@[simp] theorem writeTx_world (i v : Byte) : (writeTx i v s).world = s.world := rfl

/-! ### writeRx -/

@[simp] theorem writeRx_cfg (i v : Byte) : (writeRx i v s).cfg = s.cfg := rfl
@[simp] theorem writeRx_portOut (i v : Byte) : (writeRx i v s).portOut = s.portOut := rfl
@[simp] theorem writeRx_portDir (i v : Byte) : (writeRx i v s).portDir = s.portDir := rfl
@[simp] theorem writeRx_shreg (i v : Byte) : (writeRx i v s).shreg = s.shreg := rfl
@[simp] theorem writeRx_bitcnt (i v : Byte) : (writeRx i v s).bitcnt = s.bitcnt := rfl
@[simp] theorem writeRx_bytecnt (i v : Byte) : (writeRx i v s).bytecnt = s.bytecnt := rfl
@[simp] theorem writeRx_pulsecnt (i v : Byte) : (writeRx i v s).pulsecnt = s.pulsecnt := rfl
@[simp] theorem writeRx_addrb (i v : Byte) : (writeRx i v s).addrb = s.addrb := rfl
@[simp] theorem writeRx_rw (i v : Byte) : (writeRx i v s).rw = s.rw := rfl
@[simp] theorem writeRx_len (i v : Byte) : (writeRx i v s).len = s.len := rfl
@[simp] theorem writeRx_force (i v : Byte) : (writeRx i v s).force = s.force := rfl
@[simp] theorem writeRx_ackf (i v : Byte) : (writeRx i v s).ackf = s.ackf := rfl
@[simp] theorem writeRx_sbit (i v : Byte) : (writeRx i v s).sbit = s.sbit := rfl
@[simp] theorem writeRx_err (i v : Byte) : (writeRx i v s).err = s.err := rfl
@[simp] theorem writeRx_fsm (i v : Byte) : (writeRx i v s).fsm = s.fsm := rfl
@[simp] theorem writeRx_phase (i v : Byte) : (writeRx i v s).phase = s.phase := rfl
@[simp] theorem writeRx_cur (i v : Byte) : (writeRx i v s).cur = s.cur := rfl
@[simp] theorem writeRx_stopStatus (i v : Byte) : (writeRx i v s).stopStatus = s.stopStatus := rfl
@[simp] theorem writeRx_txbuf (i v : Byte) : (writeRx i v s).txbuf = s.txbuf := rfl
@[simp] theorem writeRx_rxbuf (i v : Byte) : (writeRx i v s).rxbuf = s.rxbuf.write i.toNat v := rfl
@[simp] theorem writeRx_rsp (i v : Byte) : (writeRx i v s).rsp = s.rsp := rfl
@[simp] theorem writeRx_trace (i v : Byte) : (writeRx i v s).trace = s.trace := rfl
@[simp] theorem writeRx_epoch (i v : Byte) : (writeRx i v s).epoch = s.epoch := rfl
@[simp] theorem writeRx_world (i v : Byte) : (writeRx i v s).world = s.world := rfl

/-! ### offerNext -/

@[simp] theorem offerNext_cfg (w : Word) : (offerNext w s).cfg = s.cfg := rfl
@[simp] theorem offerNext_portOut (w : Word) : (offerNext w s).portOut = s.portOut := rfl
@[simp] theorem offerNext_portDir (w : Word) : (offerNext w s).portDir = s.portDir := rfl
@[simp] theorem offerNext_shreg (w : Word) : (offerNext w s).shreg = s.shreg := rfl
@[simp] theorem offerNext_bitcnt (w : Word) : (offerNext w s).bitcnt = s.bitcnt := rfl
@[simp] theorem offerNext_bytecnt (w : Word) : (offerNext w s).bytecnt = s.bytecnt := rfl
@[simp] theorem offerNext_pulsecnt (w : Word) : (offerNext w s).pulsecnt = s.pulsecnt := rfl
@[simp] theorem offerNext_addrb (w : Word) : (offerNext w s).addrb = s.addrb := rfl
@[simp] theorem offerNext_rw (w : Word) : (offerNext w s).rw = s.rw := rfl
@[simp] theorem offerNext_len (w : Word) : (offerNext w s).len = s.len := rfl
@[simp] theorem offerNext_force (w : Word) : (offerNext w s).force = s.force := rfl
@[simp] theorem offerNext_ackf (w : Word) : (offerNext w s).ackf = s.ackf := rfl
@[simp] theorem offerNext_sbit (w : Word) : (offerNext w s).sbit = s.sbit := rfl
@[simp] theorem offerNext_err (w : Word) : (offerNext w s).err = s.err := rfl
@[simp] theorem offerNext_fsm (w : Word) : (offerNext w s).fsm = .idle := rfl
@[simp] theorem offerNext_phase (w : Word) : (offerNext w s).phase = 0 := rfl
@[simp] theorem offerNext_cur (w : Word) : (offerNext w s).cur = none := rfl
@[simp] theorem offerNext_stopStatus (w : Word) : (offerNext w s).stopStatus = s.stopStatus := rfl
@[simp] theorem offerNext_txbuf (w : Word) : (offerNext w s).txbuf = s.txbuf := rfl
@[simp] theorem offerNext_rxbuf (w : Word) : (offerNext w s).rxbuf = s.rxbuf := rfl
@[simp] theorem offerNext_rsp (w : Word) : (offerNext w s).rsp = none := rfl
@[simp] theorem offerNext_trace (w : Word) : (offerNext w s).trace = s.trace := rfl
@[simp] theorem offerNext_epoch (w : Word) : (offerNext w s).epoch = s.epoch := rfl
@[simp] theorem offerNext_world (w : Word) : (offerNext w s).world = { s.world with pins := ⟨false, some w, false⟩ :: s.world.pins } := rfl

/-! ### Line steps as primitives (R67, R170) -/

@[simp] theorem perform_scl (b : Bool) :
    perform (.scl b) s = padWrite (.scl b) (insertBit s.portOut s.cfg.sclBit b) s := rfl

@[simp] theorem perform_sda (b : Bool) :
    perform (.sda b) s = padWrite (.sda b) (insertBit s.portOut s.cfg.sdaBit b) s := rfl

@[simp] theorem perform_oe (b : Bool) :
    perform (.oe b) s = padDir (.oe b) (bitMask s.cfg.sdaBit) (bitAt s.cfg.sdaBit b) s := rfl

@[simp] theorem perform_sample : perform .sample s = padRead .sample s := rfl

@[simp] theorem perform_auxOut (i : Fin 8) (b : Bool) :
    perform (.auxOut i b) s = padWrite (.auxOut i b) (insertBit s.portOut i b) s := rfl

@[simp] theorem perform_auxDir (i : Fin 8) :
    perform (.auxDir i) s = padDir (.auxDir i) (bitMask i) (bitMask i) s := rfl

/-! ### Reset (R47, R230) -/

@[simp] theorem applyReset_cfg : (applyReset s).cfg = s.cfg := rfl
@[simp] theorem applyReset_portOut : (applyReset s).portOut = resetPortOut s.cfg := rfl
@[simp] theorem applyReset_portDir : (applyReset s).portDir = resetPortDir s.cfg := rfl
@[simp] theorem applyReset_shreg : (applyReset s).shreg = 0 := rfl
@[simp] theorem applyReset_bitcnt : (applyReset s).bitcnt = 0 := rfl
@[simp] theorem applyReset_bytecnt : (applyReset s).bytecnt = 0 := rfl
@[simp] theorem applyReset_pulsecnt : (applyReset s).pulsecnt = 0 := rfl
@[simp] theorem applyReset_addrb : (applyReset s).addrb = 0 := rfl
@[simp] theorem applyReset_rw : (applyReset s).rw = false := rfl
@[simp] theorem applyReset_len : (applyReset s).len = 0 := rfl
@[simp] theorem applyReset_force : (applyReset s).force = false := rfl
@[simp] theorem applyReset_ackf : (applyReset s).ackf = false := rfl
@[simp] theorem applyReset_sbit : (applyReset s).sbit = false := rfl
@[simp] theorem applyReset_err : (applyReset s).err = 0 := rfl
@[simp] theorem applyReset_fsm : (applyReset s).fsm = .idle := rfl
@[simp] theorem applyReset_phase : (applyReset s).phase = 0 := rfl
@[simp] theorem applyReset_cur : (applyReset s).cur = none := rfl
@[simp] theorem applyReset_stopStatus : (applyReset s).stopStatus = .ok := rfl
@[simp] theorem applyReset_txbuf : (applyReset s).txbuf = [] := rfl
@[simp] theorem applyReset_rxbuf : (applyReset s).rxbuf = [] := rfl
@[simp] theorem applyReset_rsp : (applyReset s).rsp = none := rfl
@[simp] theorem applyReset_trace : (applyReset s).trace = s.trace := rfl
@[simp] theorem applyReset_epoch : (applyReset s).epoch = s.epoch + 1 := rfl

end Sys2Proof.Machine
end

