-- ==== Sys2Proof/Laws/World.lean ====
section
/-! SUPPORT. Laws of the inputs to come: what a taken answer, a taken PORT_IN value and a primitive leave of them. -/

namespace Sys2Proof.Machine

namespace World

/-- The answers to come depend on the environment's answer list and its draw counter alone. -/
theorem ackAt_congr (w v : World) (h1 : w.padAck = v.padAck) (h2 : w.ackDraws = v.ackDraws) (k : Nat) :
    w.ackAt k = v.ackAt k := by
  induction k generalizing w v with
  | zero => simp only [ackAt, ack, h1, h2]
  | succ k ih =>
    simp only [ackAt]
    apply ih
    · simp only [dropAck, h1]
      cases v.padAck <;> simp
    · simp only [dropAck, h1]
      cases v.padAck <;> simp [h2]

/-- The PORT_IN values to come depend on the environment's value list and its draw counter alone. -/
theorem inAt_congr (w v : World) (h1 : w.padIn = v.padIn) (h2 : w.inDraws = v.inDraws) (k : Nat) :
    w.inAt k = v.inAt k := by
  induction k generalizing w v with
  | zero => simp only [inAt, portIn, h1, h2]
  | succ k ih =>
    simp only [inAt]
    apply ih
    · simp only [dropIn, h1]
      cases v.padIn <;> simp
    · simp only [dropIn, h1]
      cases v.padIn <;> simp [h2]

theorem ackAt_zero (w : World) : w.ackAt 0 = w.ack := rfl
theorem ackAt_succ (w : World) (k : Nat) : w.ackAt (k + 1) = w.dropAck.ackAt k := rfl
theorem inAt_zero (w : World) : w.inAt 0 = w.portIn := rfl
theorem inAt_succ (w : World) (k : Nat) : w.inAt (k + 1) = w.dropIn.inAt k := rfl

@[simp] theorem dropIn_padAck (w : World) : w.dropIn.padAck = w.padAck := by cases h : w.padIn <;> simp [dropIn, h]
@[simp] theorem dropIn_ackDraws (w : World) : w.dropIn.ackDraws = w.ackDraws := by
  cases h : w.padIn <;> simp [dropIn, h]
@[simp] theorem dropIn_pins (w : World) : w.dropIn.pins = w.pins := by cases h : w.padIn <;> simp [dropIn, h]
@[simp] theorem dropAck_padIn (w : World) : w.dropAck.padIn = w.padIn := by cases h : w.padAck <;> simp [dropAck, h]
@[simp] theorem dropAck_inDraws (w : World) : w.dropAck.inDraws = w.inDraws := by
  cases h : w.padAck <;> simp [dropAck, h]
@[simp] theorem dropAck_pins (w : World) : w.dropAck.pins = w.pins := by cases h : w.padAck <;> simp [dropAck, h]
@[simp] theorem dropPins_padAck (w : World) : w.dropPins.padAck = w.padAck := rfl
@[simp] theorem dropPins_padIn (w : World) : w.dropPins.padIn = w.padIn := rfl
@[simp] theorem dropPins_ackDraws (w : World) : w.dropPins.ackDraws = w.ackDraws := rfl
@[simp] theorem dropPins_inDraws (w : World) : w.dropPins.inDraws = w.inDraws := rfl

@[simp] theorem setOut_pins (w : World) (v : Byte) : (w.setOut v).pins = w.pins := rfl
@[simp] theorem setDir_pins (w : World) (v : Byte) : (w.setDir v).pins = w.pins := rfl
@[simp] theorem setOut_padAck (w : World) (v : Byte) : (w.setOut v).padAck = w.padAck := rfl
@[simp] theorem setDir_padAck (w : World) (v : Byte) : (w.setDir v).padAck = w.padAck := rfl
@[simp] theorem setOut_gpioOut (w : World) (v : Byte) : (w.setOut v).gpioOut = v := rfl
@[simp] theorem setOut_gpioDir (w : World) (v : Byte) : (w.setOut v).gpioDir = w.gpioDir := rfl
@[simp] theorem setDir_gpioOut (w : World) (v : Byte) : (w.setDir v).gpioOut = w.gpioOut := rfl
@[simp] theorem setDir_gpioDir (w : World) (v : Byte) : (w.setDir v).gpioDir = v := rfl
@[simp] theorem ack_setOut (w : World) (v : Byte) : (w.setOut v).ack = w.ack := rfl
@[simp] theorem ack_setDir (w : World) (v : Byte) : (w.setDir v).ack = w.ack := rfl
@[simp] theorem portIn_setOut (w : World) (v : Byte) : (w.setOut v).portIn = w.portIn := rfl
@[simp] theorem portIn_setDir (w : World) (v : Byte) : (w.setDir v).portIn = w.portIn := rfl

@[simp] theorem ackAt_setOut (w : World) (v : Byte) (k : Nat) : (w.setOut v).ackAt k = w.ackAt k := by
  apply ackAt_congr <;> rfl
@[simp] theorem ackAt_setDir (w : World) (v : Byte) (k : Nat) : (w.setDir v).ackAt k = w.ackAt k := by
  apply ackAt_congr <;> rfl
@[simp] theorem inAt_setOut (w : World) (v : Byte) (k : Nat) : (w.setOut v).inAt k = w.inAt k := by
  apply inAt_congr <;> rfl
@[simp] theorem inAt_setDir (w : World) (v : Byte) (k : Nat) : (w.setDir v).inAt k = w.inAt k := by
  apply inAt_congr <;> rfl

@[simp] theorem ackAt_dropIn (w : World) (k : Nat) : w.dropIn.ackAt k = w.ackAt k :=
  ackAt_congr _ w (dropIn_padAck w) (dropIn_ackDraws w) k
@[simp] theorem inAt_dropAck (w : World) (k : Nat) : w.dropAck.inAt k = w.inAt k :=
  inAt_congr _ w (dropAck_padIn w) (dropAck_inDraws w) k
@[simp] theorem ackAt_dropPins (w : World) (k : Nat) : w.dropPins.ackAt k = w.ackAt k := by apply ackAt_congr <;> rfl
@[simp] theorem inAt_dropPins (w : World) (k : Nat) : w.dropPins.inAt k = w.inAt k := by apply inAt_congr <;> rfl

@[simp] theorem portIn_dropAck (w : World) : w.dropAck.portIn = w.portIn := inAt_dropAck w 0
@[simp] theorem ack_dropIn (w : World) : w.dropIn.ack = w.ack := ackAt_dropIn w 0

/-- A free answer is never wait (log 4). -/
theorem freeAck_ne_wait (k : Nat) : freeAck k ≠ .wait := by
  unfold freeAck; split <;> simp

theorem AllDone.head {w : World} {n : Nat} (h : w.AllDone (n + 1)) : w.ack = .done := h 0 (Nat.succ_pos n)

theorem AllDone.tail {w : World} {n : Nat} (h : w.AllDone (n + 1)) : w.dropAck.AllDone n :=
  fun k hk => h (k + 1) (Nat.succ_lt_succ hk)

theorem AllDone.mono {w : World} {n m : Nat} (h : w.AllDone n) (hm : m ≤ n) : w.AllDone m :=
  fun k hk => h k (Nat.lt_of_lt_of_le hk hm)

theorem AllDone.congr {w v : World} {n : Nat} (h : w.AllDone n) (e : ∀ k, v.ackAt k = w.ackAt k) : v.AllDone n :=
  fun k hk => (e k).trans (h k hk)

theorem AllDone.noWait {w : World} {n : Nat} (h : w.AllDone n) : w.NoWait n := fun k hk => by simp [h k hk]

end World

/-- The answers to come after a performed line step. -/
@[simp] theorem perform_ackAt (l : Line) (s : State) (k : Nat) :
    (perform l s).world.ackAt k = s.world.ackAt k := by
  cases l <;> simp

/-- The PORT_IN values to come after a performed line step: only a sample takes one. -/
theorem perform_inAt (l : Line) (s : State) (k : Nat) :
    (perform l s).world.inAt k = if l = .sample then s.world.inAt (k + 1) else s.world.inAt k := by
  cases l <;> simp [World.inAt_succ]

@[simp] theorem perform_pins (l : Line) (s : State) : (perform l s).world.pins = s.world.pins := by
  cases l <;> simp

end Sys2Proof.Machine
end

