-- ==== Sys2Proof/Laws/Sequencer.lean ====
section
/-! SUPPORT. Laws of the sequencer: what one primitive does, what a whole sub-sequence does, and the induction over a
run. -/

namespace Sys2Proof.Machine

/-! ### What a performed line step leaves alone -/

variable (l : Line) (s : State)

@[simp] theorem perform_cfg : (perform l s).cfg = s.cfg := by cases l <;> rfl
@[simp] theorem perform_shreg : (perform l s).shreg = s.shreg := by cases l <;> rfl
@[simp] theorem perform_bitcnt : (perform l s).bitcnt = s.bitcnt := by cases l <;> rfl
@[simp] theorem perform_bytecnt : (perform l s).bytecnt = s.bytecnt := by cases l <;> rfl
@[simp] theorem perform_pulsecnt : (perform l s).pulsecnt = s.pulsecnt := by cases l <;> rfl
@[simp] theorem perform_addrb : (perform l s).addrb = s.addrb := by cases l <;> rfl
@[simp] theorem perform_rw : (perform l s).rw = s.rw := by cases l <;> rfl
@[simp] theorem perform_len : (perform l s).len = s.len := by cases l <;> rfl
@[simp] theorem perform_force : (perform l s).force = s.force := by cases l <;> rfl
@[simp] theorem perform_ackf : (perform l s).ackf = s.ackf := by cases l <;> rfl
@[simp] theorem perform_err : (perform l s).err = s.err := by cases l <;> rfl
@[simp] theorem perform_fsm : (perform l s).fsm = s.fsm := by cases l <;> rfl
@[simp] theorem perform_phase : (perform l s).phase = s.phase := by cases l <;> rfl
@[simp] theorem perform_cur : (perform l s).cur = s.cur := by cases l <;> rfl
@[simp] theorem perform_stopStatus : (perform l s).stopStatus = s.stopStatus := by cases l <;> rfl
@[simp] theorem perform_txbuf : (perform l s).txbuf = s.txbuf := by cases l <;> rfl
@[simp] theorem perform_rxbuf : (perform l s).rxbuf = s.rxbuf := by cases l <;> rfl
@[simp] theorem perform_rsp : (perform l s).rsp = s.rsp := by cases l <;> rfl
@[simp] theorem perform_epoch : (perform l s).epoch = s.epoch := by cases l <;> rfl

/-- Only a sample writes SBIT (R34). -/
theorem perform_sbit :
    (perform l s).sbit = if l = .sample then testBit s.world.portIn s.cfg.sdaBit else s.sbit := by
  cases l <;> simp

/-- Exactly one event is added, of the line step performed (R11, R67). -/
theorem perform_trace : ∃ v, (perform l s).trace = s.trace ++ [.done l v] := by
  cases l <;> exact ⟨_, rfl⟩

/-- What a faulted line step leaves: one FAULT event, and no engine register changed (R67, R204). -/
theorem performFault_eq : ∃ w : World, performFault l s = { s with trace := s.trace ++ [.fault], world := w } ∧
    w.pins = s.world.pins := by
  cases l <;> exact ⟨_, rfl, rfl⟩

/-- The sub-sequence depends on FSM, the command, SHREG, the counters and the latches alone. -/
theorem currentSeq_congr {s t : State} (h1 : t.fsm = s.fsm) (h2 : t.cur = s.cur) (h3 : t.shreg = s.shreg)
    (h4 : t.bitcnt = s.bitcnt) (h5 : t.bytecnt = s.bytecnt) (h6 : t.rw = s.rw) (h7 : t.len = s.len) :
    currentSeq t = currentSeq s := by
  simp only [currentSeq, h1, h2, h6, shiftBit, readAnswer, h3, h5, h7]
  cases s.fsm <;> try rfl
  cases s.cur with
  | none => rfl
  | some i => cases i <;> simp only [singleSeq, h4, shiftBit, h3]

@[simp] theorem currentSeq_perform : currentSeq (perform l s) = currentSeq s := by
  apply currentSeq_congr <;> simp

@[simp] theorem currentSeq_takeAck : currentSeq (takeAck s) = currentSeq s := by
  apply currentSeq_congr <;> rfl

@[simp] theorem currentSeq_setPhase (p : Nat) : currentSeq (setPhase p s) = currentSeq s := by
  apply currentSeq_congr <;> rfl

@[simp] theorem currentSeq_addPulse : currentSeq (addPulse s) = currentSeq s := by
  apply currentSeq_congr <;> rfl

/-! ### One primitive -/

variable {l s}

theorem advance_idle (h : s.fsm = .idle) (k : Nat) : advance k s = s := by
  cases k <;> simp [advance, h]

theorem primStep_done (hl : nextLine s = some l) (ha : s.world.ack = .done) :
    primStep s = advancePhase (countPulse (perform l (takeAck s))) := by
  simp [primStep, hl, ha]

theorem primStep_fault (hl : nextLine s = some l) (ha : s.world.ack = .fault) :
    primStep s = busTimeout l (takeAck s) := by
  simp [primStep, hl, ha]

theorem primStep_wait (hl : nextLine s = some l) (ha : s.world.ack = .wait) : primStep s = takeAck s := by
  simp [primStep, hl, ha]

theorem advance_succ (hf : s.fsm ≠ .idle) (ha : s.world.ack ≠ .wait) (k : Nat) :
    advance (k + 1) s = advance k (primStep s) := by
  simp [advance, hf, ha]

theorem advance_wait (hf : s.fsm ≠ .idle) (ha : s.world.ack = .wait) (k : Nat) : advance (k + 1) s = primStep s := by
  simp [advance, hf, ha]

theorem countPulse_other (h : s.fsm ≠ .recPulse) : countPulse s = s := by
  simp [countPulse, h]

/-- What every primitive of a run keeps, the run keeps (once for all runs). -/
theorem advance_induction {P : State → Prop} (hstep : ∀ u, P u → u.fsm ≠ .idle → P (primStep u)) (k : Nat)
    (h : P s) : P (advance k s) := by
  induction k generalizing s with
  | zero => exact h
  | succ k ih =>
    by_cases hf : s.fsm = .idle
    · rw [advance_idle hf]; exact h
    · by_cases ha : s.world.ack = .wait
      · rw [advance_wait hf ha]; exact hstep s h hf
      · rw [advance_succ hf ha]; exact ih (hstep s h hf)

/-! ### A whole sub-sequence -/

/-- The state after line steps that were all done. -/
def performAll : List Line → State → State
  | [], s => s
  | l :: ls, s => performAll ls (perform l (takeAck s))

/-- The phase is no part of what line steps do. -/
theorem performAll_setPhase (ls : List Line) (u : State) (p q : Nat) :
    setPhase q (performAll ls (setPhase p u)) = setPhase q (performAll ls u) := by
  induction ls generalizing u with
  | nil => rfl
  | cons l ls ih =>
    simp only [performAll]
    rw [show perform l (takeAck (setPhase p u)) = setPhase p (perform l (takeAck u)) by cases l <;> rfl,
      ih]

@[simp] theorem currentSeq_performAll (ls : List Line) (u : State) : currentSeq (performAll ls u) = currentSeq u := by
  induction ls generalizing u with
  | nil => rfl
  | cons l ls ih => simp [performAll, ih]

/-- Each line step takes one answer of the environment. -/
@[simp] theorem performAll_ackAt (ls : List Line) (u : State) (k : Nat) :
    (performAll ls u).world.ackAt k = u.world.ackAt (k + ls.length) := by
  induction ls generalizing u with
  | nil => rfl
  | cons l ls ih =>
    simp only [performAll, ih, perform_ackAt, takeAck_world, List.length_cons]
    rw [← World.ackAt_succ, show k + ls.length + 1 = k + (ls.length + 1) by omega]

/-- Each sample takes one value of PORT_IN. -/
@[simp] theorem performAll_inAt (ls : List Line) (u : State) (k : Nat) :
    (performAll ls u).world.inAt k = u.world.inAt (k + ls.count .sample) := by
  induction ls generalizing u with
  | nil => rfl
  | cons l ls ih =>
    simp only [performAll, ih, perform_inAt, takeAck_world, World.inAt_dropAck, List.count_cons, beq_iff_eq]
    split <;> rfl

@[simp] theorem performAll_pins (ls : List Line) (u : State) : (performAll ls u).world.pins = u.world.pins := by
  induction ls generalizing u with
  | nil => rfl
  | cons l ls ih => simp [performAll, ih]

/-- The events of line steps that were all done name them in order (R11, R69). -/
theorem performAll_trace (ls : List Line) (u : State) :
    ∃ es, (performAll ls u).trace = u.trace ++ es ∧ es.map Event.line = ls.map some := by
  induction ls generalizing u with
  | nil => exact ⟨[], by simp [performAll], rfl⟩
  | cons l ls ih =>
    obtain ⟨v, hv⟩ := perform_trace l (takeAck u)
    obtain ⟨es, h1, h2⟩ := ih (perform l (takeAck u))
    refine ⟨.done l v :: es, ?_, by simp [Event.line, h2]⟩
    simp only [performAll, h1, hv, takeAck_trace]
    simp

@[simp] theorem performAll_cfg (ls : List Line) (u : State) : (performAll ls u).cfg = u.cfg := by
  induction ls generalizing u with
  | nil => rfl
  | cons l ls ih => simp [performAll, ih]

@[simp] theorem performAll_shreg (ls : List Line) (u : State) : (performAll ls u).shreg = u.shreg := by
  induction ls generalizing u with
  | nil => rfl
  | cons l ls ih => simp [performAll, ih]

@[simp] theorem performAll_bitcnt (ls : List Line) (u : State) : (performAll ls u).bitcnt = u.bitcnt := by
  induction ls generalizing u with
  | nil => rfl
  | cons l ls ih => simp [performAll, ih]

@[simp] theorem performAll_bytecnt (ls : List Line) (u : State) : (performAll ls u).bytecnt = u.bytecnt := by
  induction ls generalizing u with
  | nil => rfl
  | cons l ls ih => simp [performAll, ih]

@[simp] theorem performAll_pulsecnt (ls : List Line) (u : State) : (performAll ls u).pulsecnt = u.pulsecnt := by
  induction ls generalizing u with
  | nil => rfl
  | cons l ls ih => simp [performAll, ih]

@[simp] theorem performAll_addrb (ls : List Line) (u : State) : (performAll ls u).addrb = u.addrb := by
  induction ls generalizing u with
  | nil => rfl
  | cons l ls ih => simp [performAll, ih]

@[simp] theorem performAll_rw (ls : List Line) (u : State) : (performAll ls u).rw = u.rw := by
  induction ls generalizing u with
  | nil => rfl
  | cons l ls ih => simp [performAll, ih]

@[simp] theorem performAll_len (ls : List Line) (u : State) : (performAll ls u).len = u.len := by
  induction ls generalizing u with
  | nil => rfl
  | cons l ls ih => simp [performAll, ih]

@[simp] theorem performAll_force (ls : List Line) (u : State) : (performAll ls u).force = u.force := by
  induction ls generalizing u with
  | nil => rfl
  | cons l ls ih => simp [performAll, ih]

@[simp] theorem performAll_ackf (ls : List Line) (u : State) : (performAll ls u).ackf = u.ackf := by
  induction ls generalizing u with
  | nil => rfl
  | cons l ls ih => simp [performAll, ih]

@[simp] theorem performAll_err (ls : List Line) (u : State) : (performAll ls u).err = u.err := by
  induction ls generalizing u with
  | nil => rfl
  | cons l ls ih => simp [performAll, ih]

@[simp] theorem performAll_fsm (ls : List Line) (u : State) : (performAll ls u).fsm = u.fsm := by
  induction ls generalizing u with
  | nil => rfl
  | cons l ls ih => simp [performAll, ih]

@[simp] theorem performAll_phase (ls : List Line) (u : State) : (performAll ls u).phase = u.phase := by
  induction ls generalizing u with
  | nil => rfl
  | cons l ls ih => simp [performAll, ih]

@[simp] theorem performAll_cur (ls : List Line) (u : State) : (performAll ls u).cur = u.cur := by
  induction ls generalizing u with
  | nil => rfl
  | cons l ls ih => simp [performAll, ih]

@[simp] theorem performAll_stopStatus (ls : List Line) (u : State) : (performAll ls u).stopStatus = u.stopStatus := by
  induction ls generalizing u with
  | nil => rfl
  | cons l ls ih => simp [performAll, ih]

@[simp] theorem performAll_txbuf (ls : List Line) (u : State) : (performAll ls u).txbuf = u.txbuf := by
  induction ls generalizing u with
  | nil => rfl
  | cons l ls ih => simp [performAll, ih]

@[simp] theorem performAll_rxbuf (ls : List Line) (u : State) : (performAll ls u).rxbuf = u.rxbuf := by
  induction ls generalizing u with
  | nil => rfl
  | cons l ls ih => simp [performAll, ih]

@[simp] theorem performAll_rsp (ls : List Line) (u : State) : (performAll ls u).rsp = u.rsp := by
  induction ls generalizing u with
  | nil => rfl
  | cons l ls ih => simp [performAll, ih]

@[simp] theorem performAll_epoch (ls : List Line) (u : State) : (performAll ls u).epoch = u.epoch := by
  induction ls generalizing u with
  | nil => rfl
  | cons l ls ih => simp [performAll, ih]

theorem nextLine_of_drop {L : List Line} {ls : List Line} (hL : currentSeq s = L) (h : L.drop s.phase = l :: ls) :
    nextLine s = some l := by
  have := congrArg List.head? h
  rw [List.head?_drop] at this
  simpa [nextLine, hL] using this

/-- A sub-sequence whose primitives are all done runs to its end, then its transition is made (R69). -/
theorem advance_drop {L ls : List Line} (k : Nat) (hL : currentSeq s = L) (h : L.drop s.phase = ls) (hne : ls ≠ [])
    (hf : s.fsm ≠ .idle) (hr : s.fsm ≠ .recPulse) (hd : s.world.AllDone ls.length) :
    advance (ls.length + k) s = advance k (finishSeq (setPhase (L.length - 1) (performAll ls s))) := by
  induction ls generalizing s with
  | nil => exact absurd rfl hne
  | cons l ls ih =>
    have hlen : L.length = s.phase + (ls.length + 1) := by
      have h1 := congrArg List.length h
      have : s.phase < L.length := by
        by_contra hc
        rw [List.drop_eq_nil_of_le (by omega)] at h
        cases h
      simp only [List.length_drop, List.length_cons] at h1
      omega
    have hn := nextLine_of_drop hL h
    rw [List.length_cons, show ls.length + 1 + k = ls.length + k + 1 by omega,
      advance_succ hf (by simp [hd.head]), primStep_done hn hd.head, countPulse_other (by simpa using hr), advancePhase]
    simp only [perform_phase, takeAck_phase, currentSeq_perform, currentSeq_takeAck, hL, performAll]
    by_cases hls : ls = []
    · subst hls
      have : L.length = s.phase + 1 := by simpa using hlen
      simp only [this, Nat.lt_irrefl, if_false, performAll, List.length_nil, Nat.zero_add, Nat.add_sub_cancel]
      congr 2
      rw [show s.phase = (perform l (takeAck s)).phase by simp]
      rfl
    · have hpos : 0 < ls.length := List.length_pos_of_ne_nil hls
      rw [if_pos (by omega)]
      have key := ih (s := setPhase (s.phase + 1) (perform l (takeAck s)))
        (by rw [currentSeq_setPhase, currentSeq_perform, currentSeq_takeAck, hL])
        (by
          show L.drop (s.phase + 1) = ls
          rw [← List.drop_drop, h]
          rfl)
        hls (by simpa using hf) (by simpa using hr)
        (by
          refine World.AllDone.congr (World.AllDone.tail hd) fun k => ?_
          show (perform l (takeAck s)).world.ackAt k = _
          simp)
      rw [key]
      congr 2
      exact performAll_setPhase _ _ _ _

/-- `advance_drop` from the start of a sub-sequence. -/
theorem advance_seq {L : List Line} (k : Nat) (hL : currentSeq s = L) (hp : s.phase = 0) (hne : L ≠ [])
    (hf : s.fsm ≠ .idle) (hr : s.fsm ≠ .recPulse) (hd : s.world.AllDone L.length) :
    advance (L.length + k) s = advance k (finishSeq (setPhase (L.length - 1) (performAll L s))) :=
  advance_drop k hL (by rw [hp, List.drop_zero]) hne hf hr hd

/-- The first primitives of a sub-sequence, all done, when it has more of them. -/
theorem advance_take {L : List Line} (n k : Nat) (hL : currentSeq s = L) (hp : s.phase + n < L.length)
    (hf : s.fsm ≠ .idle) (hr : s.fsm ≠ .recPulse) (hd : s.world.AllDone n) :
    advance (n + k) s =
      advance k (setPhase (s.phase + n) (performAll ((L.drop s.phase).take n) s)) := by
  induction n generalizing s with
  | zero => simp only [performAll, List.take_zero, Nat.zero_add, Nat.add_zero]; rfl
  | succ n ih =>
    obtain ⟨l, hl⟩ : ∃ l, L[s.phase]? = some l := ⟨L[s.phase], List.getElem?_eq_getElem (by omega)⟩
    have hn : nextLine s = some l := by simpa [nextLine, hL] using hl
    have hdrop : L.drop s.phase = l :: L.drop (s.phase + 1) := by
      rw [List.drop_eq_getElem_cons (by omega)]
      congr 1
      rw [List.getElem?_eq_getElem (by omega)] at hl
      exact Option.some.inj hl
    rw [show n + 1 + k = n + k + 1 by omega, advance_succ hf (by simp [hd.head]), primStep_done hn hd.head,
      countPulse_other (by simpa using hr), advancePhase]
    simp only [perform_phase, takeAck_phase, currentSeq_perform, currentSeq_takeAck, hL]
    rw [if_pos (by omega), hdrop, List.take_succ_cons]
    have key := ih (s := setPhase (s.phase + 1) (perform l (takeAck s)))
      (by rw [currentSeq_setPhase, currentSeq_perform, currentSeq_takeAck, hL])
      (by show s.phase + 1 + n < _; omega)
      (by simpa using hf) (by simpa using hr)
      (by
        refine World.AllDone.congr (World.AllDone.tail hd) fun k => ?_
        show (perform l (takeAck s)).world.ackAt k = _
        simp)
    rw [key]
    simp only [performAll]
    congr 1
    rw [show s.phase + (n + 1) = s.phase + 1 + n by omega]
    exact performAll_setPhase _ _ _ _

/-- A sub-sequence in which the k-th primitive is the first to fault: BUS_TIMEOUT (R204, R209). -/
theorem advance_fault {L : List Line} {l : Line} (n k : Nat) (hL : currentSeq s = L) (hp : s.phase = 0)
    (hl : L[n]? = some l) (hf : s.fsm ≠ .idle) (hr : s.fsm ≠ .recPulse) (hd : s.world.AllDone n)
    (hx : s.world.ackAt n = .fault) :
    advance (n + (k + 1)) s = busTimeout l (takeAck (setPhase n (performAll (L.take n) s))) := by
  have hn : n < L.length := by
    by_contra hc
    rw [List.getElem?_eq_none (by omega)] at hl
    cases hl
  rw [advance_take n (k + 1) hL (by omega) hf hr hd, hp, List.drop_zero, Nat.zero_add]
  have hack : (setPhase n (performAll (L.take n) s)).world.ack = .fault := by
    show (performAll (L.take n) s).world.ackAt 0 = _
    rw [performAll_ackAt, List.length_take, Nat.zero_add, Nat.min_eq_left (by omega), hx]
  rw [advance_succ (by simpa using hf) (by rw [hack]; simp)]
  rw [primStep_fault (l := l) (by simpa [nextLine, hL] using hl) hack]
  exact advance_idle rfl k

/-- One pulse of a recovery, all three primitives done (R160, R161). -/
theorem advance_recPulse (k : Nat) (hf : s.fsm = .recPulse) (hp : s.phase = 0) (hd : s.world.AllDone 3) :
    advance (3 + k) s =
      advance k (finishSeq (addPulse (setPhase 2 (performAll recPulseSeq s)))) := by
  have hL : currentSeq s = recPulseSeq := by simp [currentSeq, hf]
  have a0 : s.world.ackAt 0 = .done := hd 0 (by omega)
  have a1 : s.world.ackAt 1 = .done := hd 1 (by omega)
  have a2 : s.world.ackAt 2 = .done := hd 2 (by omega)
  rw [show 3 + k = k + 1 + 1 + 1 by omega, advance_succ (by simp [hf]) (by simp [← World.ackAt_zero, a0]),
    primStep_done (l := .scl false) (by simp [nextLine, hL, hp, recPulseSeq]) a0]
  rw [show advancePhase (countPulse (perform (.scl false) (takeAck s))) =
      setPhase 1 (perform (.scl false) (takeAck s)) by
    simp [countPulse, advancePhase, hf, hp, currentSeq, recPulseSeq]]
  generalize hu : (setPhase 1 (perform (.scl false) (takeAck s))) = u
  have uf : u.fsm = .recPulse := by rw [← hu]; simpa using hf
  have ua : ∀ j, u.world.ackAt j = s.world.ackAt (j + 1) := by
    intro j; rw [← hu]; show (perform (.scl false) (takeAck s)).world.ackAt j = _; simp [World.ackAt_succ]
  have up : u.phase = 1 := by rw [← hu]; rfl
  rw [advance_succ (by simp [uf]) (by simp [← World.ackAt_zero, ua, a1]),
    primStep_done (l := .scl true) (by simp [nextLine, currentSeq, uf, up, recPulseSeq]) ((ua 0).trans a1)]
  rw [show advancePhase (countPulse (perform (.scl true) (takeAck u))) =
      setPhase 2 (addPulse (perform (.scl true) (takeAck u))) by
    simp [countPulse, advancePhase, uf, up, currentSeq, recPulseSeq]]
  generalize hv : (setPhase 2 (addPulse (perform (.scl true) (takeAck u)))) = v
  have vf : v.fsm = .recPulse := by rw [← hv]; simpa using uf
  have va : ∀ j, v.world.ackAt j = s.world.ackAt (j + 2) := by
    intro j; rw [← hv]; show (perform (.scl true) (takeAck u)).world.ackAt j = _
    simp only [perform_ackAt, takeAck_world]; rw [← World.ackAt_succ, ua]
  have vp : v.phase = 2 := by rw [← hv]; rfl
  rw [advance_succ (by simp [vf]) (by simp [← World.ackAt_zero, va, a2]),
    primStep_done (l := .sample) (by simp [nextLine, currentSeq, vf, vp, recPulseSeq]) ((va 0).trans a2)]
  congr 1
  rw [show advancePhase (countPulse (perform .sample (takeAck v))) = finishSeq (perform .sample (takeAck v)) by
    simp [countPulse, advancePhase, vf, vp, currentSeq, recPulseSeq]]
  subst hv
  subst hu
  rfl

end Sys2Proof.Machine
end

