-- ==== Sys2Proof/Laws/Frame.lean ====
section
/-! SUPPORT. What the sequencer leaves alone: the registers that no transition writes, and what one primitive and a whole
run keep. -/

namespace Sys2Proof.Machine

/-- What no transition at the end of a sub-sequence writes: the port, SBIT, the latches, TXBUF, the trace, the inputs. -/
structure SameOutside (s t : State) : Prop where
  cfg : t.cfg = s.cfg
  portOut : t.portOut = s.portOut
  portDir : t.portDir = s.portDir
  sbit : t.sbit = s.sbit
  addrb : t.addrb = s.addrb
  rw : t.rw = s.rw
  len : t.len = s.len
  force : t.force = s.force
  txbuf : t.txbuf = s.txbuf
  trace : t.trace = s.trace
  epoch : t.epoch = s.epoch
  world : t.world = s.world

theorem SameOutside.refl (s : State) : SameOutside s s := ⟨rfl, rfl, rfl, rfl, rfl, rfl, rfl, rfl, rfl, rfl, rfl, rfl⟩

theorem finishAckAddr_same (s : State) : SameOutside s (finishAckAddr s) := by
  simp only [finishAckAddr]
  repeat' split
  all_goals exact ⟨rfl, rfl, rfl, rfl, rfl, rfl, rfl, rfl, rfl, rfl, rfl, rfl⟩

theorem countByte_same (s : State) : SameOutside s (countByte s) := by
  simp only [countByte]
  split <;> exact ⟨rfl, rfl, rfl, rfl, rfl, rfl, rfl, rfl, rfl, rfl, rfl, rfl⟩

theorem finishDataBit_same (s : State) : SameOutside s (finishDataBit s) := by
  simp only [finishDataBit]
  repeat' split
  all_goals exact ⟨rfl, rfl, rfl, rfl, rfl, rfl, rfl, rfl, rfl, rfl, rfl, rfl⟩

theorem finishAckData_same (s : State) : SameOutside s (finishAckData s) := by
  simp only [finishAckData, countByte]
  repeat' split
  all_goals exact ⟨rfl, rfl, rfl, rfl, rfl, rfl, rfl, rfl, rfl, rfl, rfl, rfl⟩

theorem finishSingle_same (s : State) (i : Instr) : SameOutside s (finishSingle s i) := by
  cases i <;> simp only [finishSingle]
  all_goals first | exact ⟨rfl, rfl, rfl, rfl, rfl, rfl, rfl, rfl, rfl, rfl, rfl, rfl⟩ | skip
  all_goals split <;> exact ⟨rfl, rfl, rfl, rfl, rfl, rfl, rfl, rfl, rfl, rfl, rfl, rfl⟩

/-- The transition at the end of any sub-sequence. -/
theorem finishSeq_same (s : State) : SameOutside s (finishSeq s) := by
  simp only [finishSeq]
  split
  · exact .refl s
  · exact ⟨rfl, rfl, rfl, rfl, rfl, rfl, rfl, rfl, rfl, rfl, rfl, rfl⟩
  · split <;> exact ⟨rfl, rfl, rfl, rfl, rfl, rfl, rfl, rfl, rfl, rfl, rfl, rfl⟩
  · exact finishAckAddr_same s
  · exact finishDataBit_same s
  · exact finishAckData_same s
  · exact ⟨rfl, rfl, rfl, rfl, rfl, rfl, rfl, rfl, rfl, rfl, rfl, rfl⟩
  · simp only [finishRecSample]
    repeat' split
    all_goals exact ⟨rfl, rfl, rfl, rfl, rfl, rfl, rfl, rfl, rfl, rfl, rfl, rfl⟩
  · simp only [finishRecPulse]
    repeat' split
    all_goals exact ⟨rfl, rfl, rfl, rfl, rfl, rfl, rfl, rfl, rfl, rfl, rfl, rfl⟩
  · split
    · exact finishSingle_same s _
    · exact .refl s

/-- The move past a completed primitive. -/
theorem advancePhase_same (s : State) : SameOutside s (advancePhase (countPulse s)) := by
  have h : SameOutside s (countPulse s) := by
    unfold countPulse
    split <;> exact ⟨rfl, rfl, rfl, rfl, rfl, rfl, rfl, rfl, rfl, rfl, rfl, rfl⟩
  unfold advancePhase
  split
  · exact ⟨h.1, h.2, h.3, h.4, h.5, h.6, h.7, h.8, h.9, h.10, h.11, h.12⟩
  · have g := finishSeq_same (countPulse s)
    exact ⟨g.1.trans h.1, g.2.trans h.2, g.3.trans h.3, g.4.trans h.4, g.5.trans h.5, g.6.trans h.6, g.7.trans h.7,
      g.8.trans h.8, g.9.trans h.9, g.10.trans h.10, g.11.trans h.11, g.12.trans h.12⟩

/-- Everything one primitive of a busy engine can do to the port and the trace (R67, R204): nothing when the environment
waits or no primitive is named; a completed line step; a FAULT event with no port register changed. -/
theorem primStep_cases (s : State) :
    (primStep s = s ∧ nextLine s = none) ∨
    (∃ l, nextLine s = some l ∧
      ((s.world.ack = .done ∧ SameOutside (perform l (takeAck s)) (primStep s)) ∨
       (s.world.ack = .wait ∧ primStep s = takeAck s) ∨
       (s.world.ack = .fault ∧ ∃ w : World, primStep s =
          respond .busTimeout (countOf s) 0 { s with trace := s.trace ++ [.fault], world := w }))) := by
  cases hl : nextLine s with
  | none => exact .inl ⟨by simp [primStep, hl], rfl⟩
  | some l =>
    refine .inr ⟨l, rfl, ?_⟩
    cases ha : s.world.ack with
    | done => exact .inl ⟨rfl, by rw [primStep_done hl ha]; exact advancePhase_same _⟩
    | wait => exact .inr (.inl ⟨rfl, primStep_wait hl ha⟩)
    | fault =>
      obtain ⟨w, hw, -⟩ := performFault_eq l (takeAck s)
      refine .inr (.inr ⟨rfl, w, ?_⟩)
      rw [primStep_fault hl ha, busTimeout, hw]
      rfl

/-- TXBUF, the configuration, the latches and the reset count survive every primitive. -/
theorem primStep_keeps (s : State) :
    (primStep s).cfg = s.cfg ∧ (primStep s).txbuf = s.txbuf ∧ (primStep s).addrb = s.addrb ∧ (primStep s).rw = s.rw ∧
    (primStep s).len = s.len ∧ (primStep s).force = s.force ∧ (primStep s).epoch = s.epoch := by
  rcases primStep_cases s with ⟨h, -⟩ | ⟨l, -, ⟨-, h⟩ | ⟨-, h⟩ | ⟨-, w, h⟩⟩
  · simp [h]
  · refine ⟨h.cfg.trans ?_, h.txbuf.trans ?_, h.addrb.trans ?_, h.rw.trans ?_, h.len.trans ?_, h.force.trans ?_,
      h.epoch.trans ?_⟩ <;> simp
  · simp [h]
  · simp [h]

/-- So they survive a whole run. -/
theorem advance_keeps (k : Nat) (s : State) :
    (advance k s).cfg = s.cfg ∧ (advance k s).txbuf = s.txbuf ∧ (advance k s).addrb = s.addrb ∧
    (advance k s).rw = s.rw ∧ (advance k s).len = s.len ∧ (advance k s).force = s.force ∧
    (advance k s).epoch = s.epoch := by
  refine advance_induction (P := fun u => u.cfg = s.cfg ∧ u.txbuf = s.txbuf ∧ u.addrb = s.addrb ∧ u.rw = s.rw ∧
    u.len = s.len ∧ u.force = s.force ∧ u.epoch = s.epoch) (fun u hu _ => ?_) k ⟨rfl, rfl, rfl, rfl, rfl, rfl, rfl⟩
  obtain ⟨h1, h2, h3, h4, h5, h6, h7⟩ := primStep_keeps u
  obtain ⟨g1, g2, g3, g4, g5, g6, g7⟩ := hu
  exact ⟨h1.trans g1, h2.trans g2, h3.trans g3, h4.trans g4, h5.trans g5, h6.trans g6, h7.trans g7⟩

end Sys2Proof.Machine
end

