-- ==== Sys2Proof/Laws/HostLayer.lean ====
section
/-! SUPPORT. Laws of the host layer: one step in which the host drives the pins, and one blocking call of a command that
ends in its step. -/

namespace Sys2Proof.Machine

/-- A ready engine whose host offers a word that decodes runs the command, with no pins left to read. -/
theorem driveStep_offer {s : State} {w : Word} {i : Instr} (hs : s.Ready) (hd : decode s.cfg w = .ok i) :
    driveStep ⟨false, some w, false⟩ s = exec i { s with world := { s.world with pins := [] } } := by
  obtain ⟨h1, h2, h3⟩ := hs
  simp [driveStep, step, World.hostPins, takePins, World.dropPins, offered, h1, h2, h3, hd]

/-- An idle engine with a waiting response gives it up to a host that is ready. -/
theorem driveStep_take {t : State} {r : Word} (hl : t.cfg.legal = true) (hf : t.fsm = .idle) (hr : t.rsp = some r) :
    driveStep ⟨false, none, true⟩ t = .next { t with rsp := none, world := { t.world with pins := [] } } := by
  simp [driveStep, step, World.hostPins, takePins, World.dropPins, takeResponse, hl, hf, hr]

/-- A waiting response ends the wait for it at once. -/
theorem awaitResponse_waiting {t : State} {r : Word} (k : Nat) (hl : t.cfg.legal = true) (hf : t.fsm = .idle)
    (hr : t.rsp = some r) :
    awaitResponse (k + 1) t = some ({ t with rsp := none, world := { t.world with pins := [] } }, r) := by
  simp only [awaitResponse, hr, driveStep_take hl hf hr]

/-- A call whose command ends in its step: the state and the response of exec, with the response taken (R8, R40, R41). -/
theorem issue_of_exec {s t : State} {w : Word} {i : Instr} {r : Word} (hs : s.Ready) (hd : decode s.cfg w = .ok i)
    (he : exec i { s with world := { s.world with pins := [] } } = .next t) (hl : t.cfg.legal = true)
    (hf : t.fsm = .idle) (hr : t.rsp = some r) :
    issue w s = some ({ t with rsp := none, world := { t.world with pins := [] } }, r) := by
  simp only [issue, driveStep_offer hs hd, he]
  exact awaitResponse_waiting _ hl hf hr

/-- A call that answers goes on with the rest of its program. -/
theorem andThen_of_issue {α : Type} {w : Word} {s t : State} {r : Word} (k : State → Word → State × HostResult α)
    (h : issue w s = some (t, r)) : andThen w s k = k t r := by
  simp only [andThen, h]

/-- Hardening touches failure(BUS_TIMEOUT) alone (R185). -/
theorem harden_other {α : Type} {r : HostResult α} (h : r ≠ .failure Status.busTimeout.code) : harden r = r := by
  cases r with
  | failure st =>
    have hst : st ≠ Status.busTimeout.code := fun e => h (congrArg _ e)
    simp [harden, hst]
  | ok _ => rfl
  | hardFailure _ => rfl
  | rejected => rfl
  | noResponse => rfl

end Sys2Proof.Machine
end

