-- ==== Sys2Proof/Laws/Memory.lean ====
section
/-! SUPPORT. Laws of the byte buffers: read after write, and the canonical form kept. -/

namespace Sys2Proof.Machine

namespace Memory

@[simp] theorem read_write_same (m : Memory) (k : Nat) (b : Byte) : (write m k b).read k = some b := by
  induction m with
  | nil => simp [write, read]
  | cons c m ih =>
    obtain ⟨i, v⟩ := c
    simp only [write]
    split
    · simp [read]
    · split
      · simp [read]
      · rename_i h1 h2
        have : i ≠ k := fun h => h2 h.symm
        simp [read, this, ih]

theorem read_write_other (m : Memory) (k j : Nat) (b : Byte) (h : j ≠ k) : (write m k b).read j = m.read j := by
  have hkj : k ≠ j := fun e => h e.symm
  induction m with
  | nil => simp [write, read, hkj]
  | cons c m ih =>
    obtain ⟨i, v⟩ := c
    simp only [write]
    split
    · simp [read, hkj]
    · split
      · rename_i h1 h2
        have : i ≠ j := fun e => hkj (h2.trans e)
        simp [read, hkj, this]
      · simp [read, ih]

/-- The canonical form, as a proposition. -/
theorem wf_iff (m : Memory) : m.wf = true ↔ m.Pairwise (fun a b => a.1 < b.1) ∧ ∀ c ∈ m, c.1 < 256 := by
  simp [wf]

theorem mem_write {m : Memory} {k : Nat} {b : Byte} {c : Host.Cell} (h : c ∈ write m k b) :
    c = (k, b) ∨ c ∈ m := by
  induction m with
  | nil => simpa [write] using h
  | cons d m ih =>
    obtain ⟨i, v⟩ := d
    simp only [write] at h
    split at h
    · simpa using h
    · split at h
      · rcases List.mem_cons.1 h with h | h
        · exact .inl h
        · exact .inr (List.mem_cons_of_mem _ h)
      · rcases List.mem_cons.1 h with h | h
        · exact .inr (h ▸ List.mem_cons_self)
        · rcases ih h with h | h
          · exact .inl h
          · exact .inr (List.mem_cons_of_mem _ h)

theorem write_wf (m : Memory) (k : Nat) (b : Byte) (hk : k < 256) (h : m.wf = true) : (write m k b).wf = true := by
  rw [wf_iff] at h ⊢
  obtain ⟨hp, hb⟩ := h
  refine ⟨?_, fun c hc => ?_⟩
  · clear hb
    induction m with
    | nil => simp [write]
    | cons d m ih =>
      obtain ⟨i, v⟩ := d
      rw [List.pairwise_cons] at hp
      simp only [write]
      split
      · rename_i h1
        refine List.pairwise_cons.2 ⟨fun c hc => ?_, List.pairwise_cons.2 hp⟩
        rcases List.mem_cons.1 hc with rfl | hc
        · exact h1
        · exact Nat.lt_trans h1 (hp.1 c hc)
      · split
        · rename_i h1 h2
          subst h2
          exact List.pairwise_cons.2 hp
        · rename_i h1 h2
          refine List.pairwise_cons.2 ⟨fun c hc => ?_, ih hp.2⟩
          rcases mem_write hc with rfl | hc
          · show i < k
            omega
          · exact hp.1 c hc
  · rcases mem_write hc with rfl | hc
    · exact hk
    · exact hb c hc

end Memory

/-- R72: a stored TXBUF entry is what a later read gives. -/
@[simp] theorem readTx_writeTx_same (i v : Byte) (s : State) : readTx (writeTx i v s) i = v := by
  simp [readTx, writeTx]

theorem readTx_writeTx_other (i j v : Byte) (s : State) (h : j ≠ i) : readTx (writeTx i v s) j = readTx s j := by
  have h' : j.toNat ≠ i.toNat := fun e => h (BitVec.eq_of_toNat_eq e)
  simp [readTx, writeTx, Memory.read_write_other _ _ _ _ h']

@[simp] theorem readRx_writeRx_same (i v : Byte) (s : State) : readRx (writeRx i v s) i = v := by
  simp [readRx, writeRx]

theorem readRx_writeRx_other (i j v : Byte) (s : State) (h : j ≠ i) : readRx (writeRx i v s) j = readRx s j := by
  have h' : j.toNat ≠ i.toNat := fun e => h (BitVec.eq_of_toNat_eq e)
  simp [readRx, writeRx, Memory.read_write_other _ _ _ _ h']

end Sys2Proof.Machine
end

