-- ==== Sys2Proof/Laws/Invariant.lean ====
section
/-! SUPPORT. Laws of the invariant: which operations keep it. -/

namespace Sys2Proof.Machine

variable {s t : State}

/-- The invariant reads no trace, no input, no PORT_OUT, no ACKF and no SBIT. -/
theorem Inv_congr (h : s.Inv) (h1 : t.cfg = s.cfg) (h2 : t.sclOe = s.sclOe) (h3 : t.txbuf = s.txbuf)
    (h4 : t.rxbuf = s.rxbuf) (h5 : t.bitcnt = s.bitcnt) (h6 : t.pulsecnt = s.pulsecnt) (h7 : t.fsm = s.fsm)
    (h8 : t.phase = s.phase) (h9 : t.cur = s.cur) (h10 : t.shreg = s.shreg) (h11 : t.bytecnt = s.bytecnt)
    (h12 : t.rw = s.rw) (h13 : t.len = s.len) (h14 : t.stopStatus = s.stopStatus) (h15 : t.rsp = s.rsp)
    (h16 : t.err = s.err) (h17 : t.addrb = s.addrb) (h18 : t.force = s.force) : t.Inv := by
  have hc := currentSeq_congr h7 h9 h10 h5 h11 h12 h13
  obtain ⟨a1, a2, a3, a4, a5, a6, a7, a8, a9, a10, a11, a12⟩ := h
  constructor
  · rwa [h1]
  · rwa [h2]
  · rwa [h3]
  · rwa [h4]
  · rwa [h5]
  · rwa [h6]
  · rw [hc, h7, h8]
    exact a7
  · unfold State.positionOk State.transferLatched at *
    rw [h5, h6, h7, h8, h9, h11, h12, h13, h17, h18]
    exact a8
  · rwa [h14]
  · rw [h7, h15]
    exact a10
  · rwa [h16]
  · rw [h15, h16]
    exact a12

/-- The sequencer's moves: configuration, directions and TXBUF kept, no response waiting, ERR kept. -/
theorem Inv_move (h : s.Inv) (h1 : t.cfg = s.cfg) (h2 : t.portDir = s.portDir) (h3 : t.txbuf = s.txbuf)
    (h4 : t.rxbuf.wf = true) (h5 : t.bitcnt.toNat ≤ 8) (h6 : t.pulsecnt.toNat ≤ 10) (hr : t.rsp = none)
    (he : t.err = s.err)
    (hst : t.stopStatus = .ok ∨ t.stopStatus = .addressNacked ∨ t.stopStatus = .dataNacked ∨ t.stopStatus = .busStuck)
    (hph : t.fsm ≠ .idle → t.phase < (currentSeq t).length) (hpos : t.positionOk) : t.Inv := by
  constructor
  · rw [h1]
    exact h.legal
  · show testBit t.portDir t.cfg.sclBit = true
    rw [h1, h2]
    exact h.clockDriven
  · rw [h3]
    exact h.txWf
  · exact h4
  · exact h5
  · exact h6
  · exact hph
  · exact hpos
  · exact hst
  · intro _
    exact hr
  · rw [he]
    exact h.errCode
  · rw [hr]
    intro r hr
    cases hr

/-- R25: no line step releases the clock. -/
theorem sclOe_perform (l : Line) (h : s.cfg.legal = true) (hs : s.sclOe = true) : (perform l s).sclOe = true := by
  have hne : s.cfg.sclBit ≠ s.cfg.sdaBit := by simpa [Config.legal] using h
  cases l <;> simp_all [State.sclOe, perform, lineOut, lineDir, padWrite, padDir, padRead]

/-- A completed primitive keeps the invariant. -/
theorem Inv_perform (l : Line) (h : s.Inv) : (perform l (takeAck s)).Inv := by
  refine Inv_congr h ?_ ?_ ?_ ?_ ?_ ?_ ?_ ?_ ?_ ?_ ?_ ?_ ?_ ?_ ?_ ?_ ?_ ?_ <;> try simp
  rw [h.clockDriven]
  exact sclOe_perform l h.legal h.clockDriven

/-- A taken answer keeps the invariant. -/
theorem Inv_takeAck (h : s.Inv) : (takeAck s).Inv :=
  Inv_congr h rfl rfl rfl rfl rfl rfl rfl rfl rfl rfl rfl rfl rfl rfl rfl rfl rfl rfl

/-- Read pins keep the invariant. -/
theorem Inv_takePins (h : s.Inv) : (takePins s).Inv :=
  Inv_congr h rfl rfl rfl rfl rfl rfl rfl rfl rfl rfl rfl rfl rfl rfl rfl rfl rfl rfl

/-- The ACK detector keeps the invariant. -/
theorem Inv_detectAck (h : s.Inv) : (detectAck s).Inv :=
  Inv_congr h rfl rfl rfl rfl rfl rfl rfl rfl rfl rfl rfl rfl rfl rfl rfl rfl rfl rfl

/-- A response with a produced code keeps the invariant. -/
theorem Inv_respond (st : Status) (c v : Byte) (h : s.Inv) (hp : producedCode st.code) : (respond st c v s).Inv := by
  refine ⟨h.legal, h.clockDriven, h.txWf, h.rxWf, h.bitcntRange, h.pulsecntRange, fun hh => absurd rfl hh,
    ⟨rfl, rfl⟩, h.stopStatusRange, fun hh => absurd rfl hh, hp, fun r hr => ?_⟩
  simp only [respond_rsp, Option.some.injEq] at hr
  subst hr
  exact ⟨rspST_response st c v, response_zero st c v⟩

/-- An illegal word keeps the invariant of an idle engine. -/
theorem Inv_illegalCmd (h : s.Inv) (hi : s.fsm = .idle) : (illegalCmd s).Inv := by
  refine ⟨h.legal, h.clockDriven, h.txWf, h.rxWf, h.bitcntRange, h.pulsecntRange, fun hh => absurd hi hh, h.position,
    h.stopStatusRange, fun hh => absurd hi hh, by simp [producedCode, illegalCmd, Status.code], fun r hr => ?_⟩
  simp only [illegalCmd, Option.some.injEq] at hr
  subst hr
  exact ⟨rspST_response .illegalCmd 0 0, response_zero .illegalCmd 0 0⟩

/-- The statuses a STOP state reports have produced codes. -/
theorem producedCode_stop {st : Status} (h : st = .ok ∨ st = .addressNacked ∨ st = .dataNacked ∨ st = .busStuck) :
    producedCode st.code := by
  rcases h with rfl | rfl | rfl | rfl <;> simp [producedCode, Status.code]

/-- BITCNT stays in its range (R28). -/
theorem bitcnt_sub (b : BitVec 4) (h : b.toNat ≤ 8) (h0 : b ≠ 0) : (b - 1).toNat ≤ 8 := by revert b; decide

/-- PULSECNT stays in its range (R30). -/
theorem pulsecnt_add (b : BitVec 4) (h : b.toNat < 10) : (b + 1).toNat ≤ 10 ∧ b + 1 ≠ 0 := by revert b; decide

/-- The data phase has primitives. -/
theorem dataSeq_pos (r : Bool) (b : Bool) : 0 < (if r then rbitSeq else wbitSeq b).length := by
  split <;> exact Nat.succ_pos _

/-- The acknowledge of a payload byte has primitives. -/
theorem ackSeq_pos (r : Bool) (b : Bool) : 0 < (if r then wbitSeq b else rbitSeq).length := by
  split <;> exact Nat.succ_pos _

/-- A command in state SINGLE has primitives. -/
theorem singleSeq_pos (i : Instr) (hi : i.isSingle = true) (h : s.fsm = .single) (hc : s.cur = some i) :
    0 < (currentSeq s).length := by
  simp only [currentSeq, h, hc]
  cases i <;> simp_all [Instr.isSingle, singleSeq, startSeq, stopSeq, wbitSeq, rbitSeq, auxSeq] <;> split <;> simp

/-- The next primitive of a busy engine. -/
theorem Inv_nextLine (h : s.Inv) (hb : s.fsm ≠ .idle) : ∃ l, nextLine s = some l :=
  ⟨_, List.getElem?_eq_getElem (h.phaseRange hb)⟩

/-- A next phase keeps the invariant (REC_PULSE, which counts between its primitives, apart). -/
theorem Inv_setPhase (h : s.Inv) (hb : s.fsm ≠ .idle) (hp : s.fsm ≠ .recPulse)
    (hlt : s.phase + 1 < (currentSeq s).length) : (setPhase (s.phase + 1) s).Inv := by
  refine Inv_move h rfl rfl rfl h.rxWf h.bitcntRange h.pulsecntRange (h.oneAtATime hb) rfl h.stopStatusRange ?_ ?_
  · intro _
    rw [currentSeq_setPhase]
    exact hlt
  · have := h.position
    unfold State.positionOk State.transferLatched at *
    revert this hb hp
    simp only [setPhase_fsm, setPhase_cur, setPhase_rw, setPhase_len, setPhase_addrb, setPhase_bytecnt,
      setPhase_bitcnt, setPhase_pulsecnt, setPhase_force]
    cases s.fsm <;> simp

/-- Entering STOP keeps the invariant. -/
theorem Inv_enterStop (st : Status) (h : s.Inv) (hb : s.fsm ≠ .idle)
    (hst : st = .ok ∨ st = .addressNacked ∨ st = .dataNacked ∨ st = .busStuck)
    (hpos : (s.transferLatched ∧ s.bytecnt ≤ s.len) ∨ ∃ f, s.cur = some (.recover f)) : (enterStop st s).Inv :=
  Inv_move h rfl rfl rfl h.rxWf h.bitcntRange h.pulsecntRange (h.oneAtATime hb) rfl hst
    (fun _ => Nat.succ_pos _) hpos

/-- Entering DATA_PHASE keeps the invariant. -/
theorem Inv_enterData (h : s.Inv) (hb : s.fsm ≠ .idle) (hpos : s.transferLatched) (hlt : s.bytecnt < s.len) :
    (enterData s).Inv :=
  Inv_move h rfl rfl rfl h.rxWf (show (8#4).toNat ≤ 8 by decide) h.pulsecntRange (h.oneAtATime hb) rfl
    h.stopStatusRange (fun _ => dataSeq_pos _ _) ⟨hpos, hlt, show (8#4) ≠ 0 by decide⟩

/-- A counted payload byte keeps the invariant. -/
theorem Inv_countByte (h : s.Inv) (hb : s.fsm ≠ .idle) (hpos : s.transferLatched) (hlt : s.bytecnt < s.len) :
    (countByte s).Inv := by
  have hle : s.bytecnt + 1 ≤ s.len := by
    revert hlt
    generalize s.bytecnt = b
    generalize s.len = l
    bv_omega
  have hr := h.oneAtATime hb
  simp only [countByte]
  split
  · exact Inv_move h rfl rfl rfl h.rxWf h.bitcntRange h.pulsecntRange hr rfl (.inl rfl) (fun _ => Nat.succ_pos _)
      (.inl ⟨hpos, hle⟩)
  · rename_i hne
    refine Inv_move h rfl rfl rfl h.rxWf (show (8#4).toNat ≤ 8 by decide) h.pulsecntRange hr rfl h.stopStatusRange
      (fun _ => dataSeq_pos _ _) ⟨hpos, ?_, show (8#4) ≠ 0 by decide⟩
    show s.bytecnt + 1 < s.len
    have hne : s.bytecnt + 1 ≠ s.len := hne
    revert hle hne
    generalize s.bytecnt = b
    generalize s.len = l
    bv_omega

/-- The end of ACK_ADDR keeps the invariant. -/
theorem Inv_finishAckAddr (h : s.Inv) (hb : s.fsm ≠ .idle) (hpos : s.transferLatched) (h0 : s.bytecnt = 0) :
    (finishAckAddr s).Inv := by
  have hd := Inv_detectAck h
  have hle : s.bytecnt ≤ s.len := by
    rw [h0]
    exact Nat.zero_le _
  simp only [finishAckAddr]
  split
  · exact Inv_enterStop _ hd hb (by simp) (.inl ⟨hpos, hle⟩)
  · split
    · exact Inv_enterStop _ hd hb (by simp) (.inl ⟨hpos, hle⟩)
    · rename_i _ h2
      refine Inv_enterData hd hb hpos ?_
      show s.bytecnt < s.len
      have h3 : ¬ ((!s.rw && s.len == 0) = true) := h2
      have hl := hpos
      unfold State.transferLatched at hl
      have hne : s.len ≠ 0 := by
        intro hz
        split at hl
        · rw [hl.1, hz] at h3
          exact h3 rfl
        · exact hl.2.2.2 (hl.2.1 ▸ hz)
        · exact hl
      rw [h0, BitVec.lt_def]
      have : s.len.toNat ≠ 0 := fun hz => hne (BitVec.eq_of_toNat_eq hz)
      show 0 < s.len.toNat
      omega

/-- The end of a bit of DATA_PHASE keeps the invariant. -/
theorem Inv_finishDataBit (h : s.Inv) (hb : s.fsm ≠ .idle) (hpos : s.transferLatched) (hlt : s.bytecnt < s.len)
    (h0 : s.bitcnt ≠ 0) : (finishDataBit s).Inv := by
  have hr := h.oneAtATime hb
  have hbit := bitcnt_sub _ h.bitcntRange h0
  simp only [finishDataBit]
  split
  · split
    · exact Inv_move h rfl rfl rfl (Memory.write_wf _ _ _ s.bytecnt.isLt h.rxWf) hbit h.pulsecntRange hr rfl
        h.stopStatusRange (fun _ => ackSeq_pos _ _) ⟨hpos, hlt⟩
    · rename_i hz
      exact Inv_move h rfl rfl rfl h.rxWf hbit h.pulsecntRange hr rfl h.stopStatusRange (fun _ => dataSeq_pos _ _)
        ⟨hpos, hlt, hz⟩
  · split
    · exact Inv_move h rfl rfl rfl h.rxWf hbit h.pulsecntRange hr rfl h.stopStatusRange (fun _ => ackSeq_pos _ _)
        ⟨hpos, hlt⟩
    · rename_i hz
      exact Inv_move h rfl rfl rfl h.rxWf hbit h.pulsecntRange hr rfl h.stopStatusRange (fun _ => dataSeq_pos _ _)
        ⟨hpos, hlt, hz⟩

/-- The end of a sub-sequence of a command in state SINGLE keeps the invariant. -/
theorem Inv_finishSingle {i : Instr} (h : s.Inv) (hf : s.fsm = .single) (hc : s.cur = some i)
    (hi : i.isSingle = true) : (finishSingle s i).Inv := by
  have hr := h.oneAtATime (by rw [hf]; decide)
  cases i with
  | start => exact Inv_respond _ _ _ h (.inl rfl)
  | stop => exact Inv_respond _ _ _ h (.inl rfl)
  | wbit _ => exact Inv_respond _ _ _ h (.inl rfl)
  | rbit => exact Inv_respond _ _ _ h (.inl rfl)
  | wbyte _ =>
    simp only [finishSingle]
    split
    · exact Inv_respond _ _ _ (Inv_detectAck h) (.inl rfl)
    · exact Inv_move h rfl rfl rfl h.rxWf (bitcnt_sub _ h.bitcntRange ‹_›) h.pulsecntRange hr rfl h.stopStatusRange
        (fun _ => singleSeq_pos _ hi rfl hc) ⟨_, hc, hi⟩
  | rbyte _ =>
    simp only [finishSingle]
    split
    · exact Inv_respond _ _ _ h (.inl rfl)
    · exact Inv_move h rfl rfl rfl h.rxWf (bitcnt_sub _ h.bitcntRange ‹_›) h.pulsecntRange hr rfl h.stopStatusRange
        (fun _ => singleSeq_pos _ hi rfl hc) ⟨_, hc, hi⟩
  | auxset _ _ => exact Inv_respond _ _ _ h (.inl rfl)
  | xferW _ _ => cases hi
  | xferR _ _ => cases hi
  | recover _ => cases hi
  | txwr _ _ => cases hi
  | rxrd _ => cases hi

/-- The end of any sub-sequence keeps the invariant. -/
theorem Inv_finishSeq (h : s.Inv) (hb : s.fsm ≠ .idle) : (finishSeq s).Inv := by
  have hpos := h.position
  have hr := h.oneAtATime hb
  unfold State.positionOk at hpos
  cases hf : s.fsm with
  | idle => exact absurd hf hb
  | start =>
    simp only [hf] at hpos
    simp only [finishSeq, hf]
    exact Inv_move h rfl rfl rfl h.rxWf (show (8#4).toNat ≤ 8 by decide) h.pulsecntRange hr rfl h.stopStatusRange
      (fun _ => Nat.succ_pos _) ⟨hpos.1, hpos.2, show (8#4) ≠ 0 by decide⟩
  | address =>
    simp only [hf] at hpos
    simp only [finishSeq, hf]
    have hbit := bitcnt_sub _ h.bitcntRange hpos.2.2
    split
    · exact Inv_move h rfl rfl rfl h.rxWf hbit h.pulsecntRange hr rfl h.stopStatusRange (fun _ => Nat.succ_pos _)
        ⟨hpos.1, hpos.2.1⟩
    · rename_i hz
      exact Inv_move h rfl rfl rfl h.rxWf hbit h.pulsecntRange hr rfl h.stopStatusRange (fun _ => Nat.succ_pos _)
        ⟨hpos.1, hpos.2.1, hz⟩
  | ackAddr =>
    simp only [hf] at hpos
    simp only [finishSeq, hf]
    exact Inv_finishAckAddr h hb hpos.1 hpos.2
  | dataPhase =>
    simp only [hf] at hpos
    simp only [finishSeq, hf]
    exact Inv_finishDataBit h hb hpos.1 hpos.2.1 hpos.2.2
  | ackData =>
    simp only [hf] at hpos
    simp only [finishSeq, hf, finishAckData]
    split
    · exact Inv_countByte h hb hpos.1 hpos.2
    · split
      · exact Inv_countByte (Inv_detectAck h) hb hpos.1 hpos.2
      · exact Inv_enterStop _ (Inv_detectAck h) hb (by simp) (.inl ⟨hpos.1, BitVec.le_of_lt hpos.2⟩)
  | stop =>
    simp only [finishSeq, hf]
    exact Inv_respond _ _ _ h (producedCode_stop h.stopStatusRange)
  | recSample =>
    simp only [hf] at hpos
    simp only [finishSeq, hf, finishRecSample]
    split
    · split
      · exact Inv_enterStop _ h hb (by simp) (.inr ⟨_, hpos.2⟩)
      · exact Inv_respond _ _ _ h (.inl rfl)
    · refine Inv_move h rfl rfl rfl h.rxWf h.bitcntRange h.pulsecntRange hr rfl h.stopStatusRange
        (fun _ => Nat.succ_pos _) ⟨hpos.2, fun _ => ?_, fun hh => nomatch hh⟩
      show s.pulsecnt.toNat < 10
      rw [hpos.1]
      decide
  | recPulse =>
    simp only [hf] at hpos
    simp only [finishSeq, hf, finishRecPulse]
    split
    · exact Inv_enterStop _ h hb (by simp) (.inr ⟨_, hpos.1⟩)
    · split
      · rename_i hlt
        exact Inv_move h rfl rfl rfl h.rxWf h.bitcntRange h.pulsecntRange hr rfl h.stopStatusRange
          (fun _ => Nat.succ_pos _) ⟨hpos.1, fun _ => hlt, fun hh => nomatch hh⟩
      · exact Inv_enterStop _ h hb (by simp) (.inr ⟨_, hpos.1⟩)
  | single =>
    simp only [hf] at hpos
    obtain ⟨i, hc, hi⟩ := hpos
    simp only [finishSeq, hf, hc]
    exact Inv_finishSingle h hf hc hi

/-- The move past a completed primitive keeps the invariant. -/
theorem Inv_advancePhase (h : s.Inv) (hb : s.fsm ≠ .idle) : (advancePhase (countPulse s)).Inv := by
  by_cases hr : s.fsm = .recPulse
  · have hL : currentSeq s = recPulseSeq := by simp [currentSeq, hr]
    have hph : s.phase < 3 := by
      have := h.phaseRange hb
      rw [hL] at this
      exact this
    have hpos := h.position
    unfold State.positionOk at hpos
    simp only [hr] at hpos
    rcases (show s.phase = 0 ∨ s.phase = 1 ∨ s.phase = 2 by omega) with h0 | h0 | h0
    · rw [show advancePhase (countPulse s) = setPhase 1 s by
        simp [countPulse, advancePhase, hr, h0, hL, recPulseSeq]]
      refine Inv_move h rfl rfl rfl h.rxWf h.bitcntRange h.pulsecntRange (h.oneAtATime hb) rfl h.stopStatusRange ?_ ?_
      · intro _
        rw [currentSeq_setPhase, hL]
        show 1 < 3
        decide
      · unfold State.positionOk
        simp only [setPhase_fsm, hr]
        exact ⟨hpos.1, fun _ => hpos.2.1 (by omega), fun hh => nomatch hh⟩
    · rw [show advancePhase (countPulse s) = setPhase 2 (addPulse s) by
        simp [countPulse, advancePhase, hr, h0, hL, recPulseSeq]]
      have hp := pulsecnt_add s.pulsecnt (hpos.2.1 (by omega))
      refine Inv_move h rfl rfl rfl h.rxWf h.bitcntRange hp.1 (h.oneAtATime hb) rfl h.stopStatusRange ?_ ?_
      · intro _
        rw [currentSeq_setPhase, currentSeq_addPulse, hL]
        show 2 < 3
        decide
      · unfold State.positionOk
        simp only [setPhase_fsm, addPulse_fsm, hr]
        exact ⟨hpos.1, fun hh => absurd hh (show ¬ 2 ≤ 1 by omega), fun _ => hp.2⟩
    · rw [show advancePhase (countPulse s) = finishSeq s by
        simp [countPulse, advancePhase, hr, h0, hL, recPulseSeq]]
      exact Inv_finishSeq h hb
  · rw [countPulse_other hr, advancePhase]
    split
    · exact Inv_setPhase h hb hr ‹_›
    · exact Inv_finishSeq h hb

/-- One primitive, however it is answered, keeps the invariant. -/
theorem Inv_primStep (h : s.Inv) (hb : s.fsm ≠ .idle) : (primStep s).Inv := by
  obtain ⟨l, hl⟩ := Inv_nextLine h hb
  cases ha : s.world.ack with
  | done =>
    rw [primStep_done hl ha]
    exact Inv_advancePhase (Inv_perform l h) (by simpa using hb)
  | fault =>
    rw [primStep_fault hl ha]
    obtain ⟨w, hw, -⟩ := performFault_eq l (takeAck s)
    refine Inv_respond _ _ _ ?_ (by simp [producedCode, Status.code])
    rw [hw]
    exact Inv_congr h rfl rfl rfl rfl rfl rfl rfl rfl rfl rfl rfl rfl rfl rfl rfl rfl rfl rfl
  | wait =>
    rw [primStep_wait hl ha]
    exact Inv_takeAck h

end Sys2Proof.Machine
end

