-- ==== Sys2Proof/Laws/PerInstr.lean ====
section
/-! SUPPORT. Per-command laws. Family Encoding: the word of every command matches its row of the opcode map in every
masked bit, so every reserved field and bit of it is 0 (30_encoding.md R91, R92). -/

namespace Sys2Proof.Laws.Encoding

/-- The word of a command matches its own row (R92). -/
def Statement (i : Instr) : Prop := encode i &&& i.row.mask = i.row.pattern

/-- The masks and the words are compared field by field. -/
theorem of_fields {i : Instr} {op n a d mop mn ma md pop pn pa pd : Byte} (he : encode i = packWord op n a d)
    (hm : i.row.mask = packWord mop mn ma md) (hp : i.row.pattern = packWord pop pn pa pd)
    (h : op &&& mop = pop ∧ n &&& mn = pn ∧ a &&& ma = pa ∧ d &&& md = pd) : Statement i := by
  rw [Statement, he, hm, hp, packWord_and, packWord_inj]
  exact h

theorem start : Statement .start := rfl

theorem stop : Statement .stop := rfl

theorem wbit (b : Bool) : Statement (.wbit b) := by cases b <;> rfl

theorem rbit : Statement .rbit := rfl

theorem wbyte (byte : Byte) : Statement (.wbyte byte) :=
  of_fields (mop := 0xFF) (mn := 0xFF) (ma := 0xFF) (md := 0) (pop := 0x05) (pn := 0) (pa := 0) (pd := 0) rfl rfl rfl
    ⟨rfl, rfl, rfl, BitVec.and_zero⟩

theorem rbyte (sendAck : Bool) : Statement (.rbyte sendAck) := by cases sendAck <;> rfl

theorem xferW (addr : BitVec 7) (n : Byte) : Statement (.xferW addr n) :=
  of_fields (mop := 0xFF) (mn := 0) (ma := 0x80) (md := 0xFF) (pop := 0x07) (pn := 0) (pa := 0) (pd := 0) rfl rfl rfl
    ⟨rfl, BitVec.and_zero, (addr_field addr).2, rfl⟩

theorem xferR (addr : BitVec 7) (n : Byte) : Statement (.xferR addr n) :=
  of_fields (mop := 0xFF) (mn := 0) (ma := 0x80) (md := 0xFF) (pop := 0x07) (pn := 0) (pa := 0) (pd := 1) rfl rfl rfl
    ⟨rfl, BitVec.and_zero, (addr_field addr).2, rfl⟩

theorem recover (force : Bool) : Statement (.recover force) := by cases force <;> rfl

theorem auxset (bit : Fin 8) (value : Bool) : Statement (.auxset bit value) :=
  of_fields (mop := 0xFF) (mn := 0xFF) (ma := 0xF8) (md := 0xFE) (pop := 0x09) (pn := 0) (pa := 0) (pd := 0) rfl rfl rfl
    ⟨rfl, rfl, (bit_field bit).2, bitByte_reserved value⟩

theorem txwr (idx byte : Byte) : Statement (.txwr idx byte) :=
  of_fields (mop := 0xFF) (mn := 0) (ma := 0xFF) (md := 0) (pop := 0x0A) (pn := 0) (pa := 0) (pd := 0) rfl rfl rfl
    ⟨rfl, BitVec.and_zero, rfl, BitVec.and_zero⟩

theorem rxrd (idx : Byte) : Statement (.rxrd idx) :=
  of_fields (mop := 0xFF) (mn := 0) (ma := 0xFF) (md := 0xFF) (pop := 0x0B) (pn := 0) (pa := 0) (pd := 0) rfl rfl rfl
    ⟨rfl, BitVec.and_zero, rfl, rfl⟩

end Sys2Proof.Laws.Encoding
end

