-- ==== Sys2Proof/Tests/Slice0.lean ====
section
/-! SUPPORT. Tests: ill-formed terms refused, words of 30_encoding.md R101 and 95_test_vectors.md V24 decoded, one small
step per command with the results of 95_test_vectors.md, and for every statement with hypotheses a state that meets
them. -/

namespace Sys2Proof.Tests

open Sys2Proof Sys2Proof.Machine

/-! ### WellFormed: each check refuses an ill-formed term -/

theorem test_wf_read_of_nothing : (Instr.xferR 0x29 0).wf Config.board = false := by decide
theorem test_wf_auxset_of_clock : (Instr.auxset 0 true).wf Config.board = false := by decide
theorem test_wf_auxset_of_data : (Instr.auxset 1 true).wf Config.board = false := by decide
theorem test_wf_address_only_write : (Instr.xferW 0x29 0).wf Config.board = true := by decide

/-! ### Decoding: words of R101, of the programs and of V24, written out from R90 to R92 -/

theorem test_decode_start : decodeTableWord 32 0x01000000 = some .start := by decide
theorem test_decode_stop : decodeTableWord 32 0x02000000 = some .stop := by decide
theorem test_decode_wbit : decodeTableWord 32 0x03000001 = some (.wbit true) := by decide
theorem test_decode_rbit : decodeTableWord 32 0x04000000 = some .rbit := by decide
theorem test_decode_wbyte : decodeTableWord 32 0x05000092 = some (.wbyte 0x92) := by decide
theorem test_decode_rbyte : decodeTableWord 32 0x06000001 = some (.rbyte true) := by decide
theorem test_decode_xferW : decodeTableWord 32 0x07012900 = some (.xferW 0x29 1) := by decide
theorem test_decode_xferR : decodeTableWord 32 0x07030001 = some (.xferR 0x00 3) := by decide
theorem test_decode_recover : decodeTableWord 32 0x08000001 = some (.recover true) := by decide
theorem test_decode_auxset : decodeTableWord 32 0x09000701 = some (.auxset 7 true) := by decide
theorem test_decode_txwr : decodeTableWord 32 0x0A0500C3 = some (.txwr 5 0xC3) := by decide
theorem test_decode_rxrd : decodeTableWord 32 0x0BFF0000 = some (.rxrd 255) := by decide

/-- V24: the illegal words. -/
theorem test_decode_illegal :
    [0x00000000, 0x0C000000, 0xFF000000, 0x01000001, 0x02010000, 0x03000002, 0x04000100, 0x05010000, 0x06000002,
      0x07002901, 0x0701A900, 0x07012902, 0x0701FF01, 0x08000100, 0x09000001, 0x09000101, 0x09000801, 0x09000402,
      0x0A000100, 0x0B000001].all (fun w => decodeTableWord 32 w == none) = true := by decide

/-- An opcode-table word placed by `withFetchWord` runs as the first command after reset: START's first event. -/
theorem test_fetch_word :
    (nextState (step (State.reset.withFetchWord 32 0x0A0500C3))).map (fun t => readTx t 5) = some 0xC3 := by
  decide +kernel

/-! ### One step per command (95_test_vectors.md) -/

/-- The state after reset with the environment's answers and the bits its samples return (binding SCL 0, SDA 1). -/
def scripted (acks : List PadAck) (samples : List Bool) : State :=
  { State.reset with world := { State.reset.world with padAck := acks, padIn := samples.map (bitAt 1) } }

/-- n primitives, all done. -/
def dones (n : Nat) : List PadAck := List.replicate n .done

/-- A scripted state in the line state (0, 0, 1). -/
def inByte (acks : List PadAck) (samples : List Bool) : State :=
  { scripted acks samples with portOut := 0x00, portDir := 0x03 }

/-- The full events of a command (R11). -/
def fullTrace (i : Instr) (s : State) : Option (List FullEvent) :=
  (nextState (exec i s)).map fun t => t.trace.map Event.full

/-- The response of a command. -/
def answer (i : Instr) (s : State) : Option Word := (nextState (exec i s)).bind fun t => t.rsp

/-- The bus symbols of a command. -/
def wire (i : Instr) (s : State) : Option (List Symbol) :=
  (nextState (exec i s)).map fun t => symbols s.cfg s.lineState (eventsBetween s t)

theorem test_start_V1 :
    fullTrace .start (scripted (dones 5) []) =
      some [.out 0x03, .dir 0x03, .out 0x03, .out 0x01, .out 0x00] := by decide +kernel

theorem test_stop_V2 :
    fullTrace .stop { scripted (dones 6) [] with portOut := 0x02, portDir := 0x01 } =
      some [.out 0x02, .out 0x00, .dir 0x03, .out 0x01, .out 0x03, .dir 0x01] := by decide +kernel

theorem test_wbit_V3 :
    fullTrace (.wbit true) (inByte (dones 4) []) = some [.out 0x02, .dir 0x03, .out 0x03, .out 0x02] := by
  decide +kernel

theorem test_wbit_V4b :
    fullTrace (.wbit false) (scripted (dones 4) []) = some [.out 0x01, .dir 0x03, .out 0x01, .out 0x00] := by
  decide +kernel

theorem test_rbit_V4 : answer .rbit (inByte (dones 4) [true]) = some 0x00000001 := by decide +kernel

theorem test_rbit_V4a :
    (nextState (exec .rbit (inByte (dones 2 ++ [.fault]) []))).map (fun t => (t.lineState, t.sbit, t.rsp)) =
      some ((true, false, false), false, some 0x03000000) := by decide +kernel

theorem test_wbyte_V5 :
    wire (.wbyte 0xA5) (inByte (dones 36) [false]) =
      some [.M true, .M false, .M true, .M false, .M false, .M true, .M false, .M true, .Zs false] := by decide +kernel

theorem test_wbyte_V6 :
    (nextState (exec (.wbyte 0x00) (inByte (dones 36) [true]))).map (fun t => (t.rsp, t.ackf, t.sbit)) =
      some (some 0x00000000, false, true) := by decide +kernel

theorem test_rbyte_V7 :
    wire (.rbyte false) (inByte (dones 36) [false, true, false, false, false, true, false, false]) =
      some [.Zs false, .Zs true, .Zs false, .Zs false, .Zs false, .Zs true, .Zs false, .Zs false, .M true] := by
  decide +kernel

theorem test_rbyte_V8a :
    answer (.rbyte true) (inByte (dones 36) [true, false, true, false, false, true, false, true]) =
      some 0x000000A5 := by decide +kernel

theorem test_xferW_V16 :
    (nextState (exec (.xferW 0x29 1) (scripted (dones 8 ++ [.fault]) []))).map
      (fun t => (t.lineState, t.shreg, t.rsp)) = some ((true, false, true), 0x52, some 0x03000000) := by
  decide +kernel

theorem test_xferW_V11 :
    wire (.xferW 0x29 1) (scripted (dones 47) [true]) =
      some [.S, .M false, .M true, .M false, .M true, .M false, .M false, .M true, .M false, .Zs true, .P] := by
  decide +kernel

theorem test_xferR_V10 :
    (nextState (exec (.xferR 0x29 1)
      (scripted (dones 83) [false, false, true, false, false, false, true, false, false]))).map
        (fun t => (t.rsp, readRx t 0, t.shreg, t.bytecnt)) = some (some 0x00010000, 0x44, 0x44, 1) := by
  decide +kernel

theorem test_xferR_V10_symbols :
    wire (.xferR 0x29 1) (scripted (dones 83) [false, false, true, false, false, false, true, false, false]) =
      some [.S, .M false, .M true, .M false, .M true, .M false, .M false, .M true, .M true, .Zs false,
        .Zs false, .Zs true, .Zs false, .Zs false, .Zs false, .Zs true, .Zs false, .Zs false, .M true, .P] := by
  decide +kernel

theorem test_recover_V17 :
    fullTrace (.recover false) (scripted (dones 17) [false, false, false, true]) =
      some [.dir 0x01, .inp 0x00, .out 0x02, .out 0x03, .inp 0x00, .out 0x02, .out 0x03, .inp 0x00, .out 0x02,
        .out 0x03, .inp 0x02, .out 0x02, .out 0x00, .dir 0x03, .out 0x01, .out 0x03, .dir 0x01] := by decide +kernel

theorem test_recover_V18 :
    answer (.recover false) (scripted (dones 38) (List.replicate 11 false)) = some 0x040A0000 := by decide +kernel

theorem test_auxset_V22 :
    fullTrace (.auxset 4 true) (scripted (dones 2) []) = some [.out 0x13, .dir 0x11] := by decide +kernel

theorem test_auxset_V22_fault :
    (nextState (exec (.auxset 4 true) (scripted [.done, .fault] []))).map (fun t => (t.portOut, t.portDir, t.rsp)) =
      some (0x13, 0x01, some 0x03000000) := by decide +kernel

theorem test_txwr_V23 :
    (nextState (exec (.txwr 255 0x01) (scripted [] []))).map (fun t => (t.rsp, readTx t 255)) =
      some (some 0x00000000, 0x01) := by decide +kernel

theorem test_rxrd_V23 :
    answer (.rxrd 0) { scripted [] [] with rxbuf := [(0, 0x44)] } = some 0x00000044 := by decide +kernel

/-! ### Witnesses: the scripted states meet the hypotheses -/

theorem scripted_ready (acks : List PadAck) (samples : List Bool) : (scripted acks samples).Ready := ⟨rfl, rfl, rfl⟩

theorem scripted_inv (acks : List PadAck) (samples : List Bool) : (scripted acks samples).Inv where
  legal := rfl
  clockDriven := by
    show testBit (resetPortDir Config.board) Config.board.sclBit = true
    decide
  txWf := rfl
  rxWf := rfl
  bitcntRange := Nat.zero_le 8
  pulsecntRange := Nat.zero_le 10
  phaseRange := fun h => absurd rfl h
  position := ⟨rfl, rfl⟩
  stopStatusRange := .inl rfl
  oneAtATime := fun _ => rfl
  errCode := .inl rfl
  rspForm := fun _ h => nomatch h

theorem ackAt_dones {w : World} {n : Nat} {rest : List PadAck} (h : w.padAck = dones n ++ rest) :
    w.AllDone n ∧ ∀ a r, rest = a :: r → w.ackAt n = a := by
  induction n generalizing w with
  | zero =>
    refine ⟨fun k hk => absurd hk (Nat.not_lt_zero k), fun a r hr => ?_⟩
    rw [hr] at h
    have hw : w.padAck = a :: r := h
    simp [World.ackAt, World.ack, hw]
  | succ n ih =>
    have hw : w.padAck = .done :: (dones n ++ rest) := h
    have hd : w.dropAck.padAck = dones n ++ rest := by simp [World.dropAck, hw]
    refine ⟨fun k hk => ?_, fun a r hr => (ih hd).2 a r hr⟩
    cases k with
    | zero => simp [World.ackAt, World.ack, hw]
    | succ k => exact (ih hd).1 k (by omega)

theorem scripted_done (n : Nat) (samples : List Bool) : (scripted (dones n) samples).world.AllDone n :=
  (ackAt_dones (rest := []) (List.append_nil _).symm).1

theorem scripted_fault (n : Nat) (samples : List Bool) :
    (scripted (dones n ++ [.fault]) samples).world.AllDone n ∧
    (scripted (dones n ++ [.fault]) samples).world.ackAt n = .fault :=
  ⟨(ackAt_dones (rest := [.fault]) rfl).1, (ackAt_dones (rest := [.fault]) rfl).2 _ _ rfl⟩

theorem sampleAt_script {w : World} {l : List Bool} (h : w.padIn = l.map (bitAt 1)) (k : Nat) (hk : k < l.length) :
    w.sampleAt Config.board k = l[k] := by
  induction l generalizing w k with
  | nil => exact absurd hk (Nat.not_lt_zero k)
  | cons b l ih =>
    have hw : w.padIn = bitAt 1 b :: l.map (bitAt 1) := h
    cases k with
    | zero =>
      simp only [World.sampleAt, World.inAt, World.portIn, hw, List.getElem_cons_zero]
      cases b <;> decide
    | succ k =>
      have hd : w.dropIn.padIn = l.map (bitAt 1) := by simp [World.dropIn, hw]
      exact ih hd k (Nat.lt_of_succ_lt_succ hk)

theorem scripted_zeros (acks : List PadAck) (m : Nat) (more : List Bool) (k : Nat) (hk : k < m) :
    (scripted acks (List.replicate m false ++ more)).world.sampleAt (scripted acks []).cfg k = false := by
  have hlen : k < (List.replicate m false ++ more).length := by
    rw [List.length_append, List.length_replicate]
    omega
  have h := sampleAt_script (w := (scripted acks (List.replicate m false ++ more)).world) rfl k hlen
  refine h.trans ?_
  rw [List.getElem_append_left (by rw [List.length_replicate]; exact hk), List.getElem_replicate]

theorem scripted_next (acks : List PadAck) (m : Nat) (b : Bool) (more : List Bool) :
    (scripted acks (List.replicate m false ++ b :: more)).world.sampleAt (scripted acks []).cfg m = b := by
  have hlen : m < (List.replicate m false ++ b :: more).length := by
    rw [List.length_append, List.length_replicate, List.length_cons]
    omega
  have h := sampleAt_script (w := (scripted acks (List.replicate m false ++ b :: more)).world) rfl m hlen
  refine h.trans ?_
  simp

/-- A scripted state with host pins for the next step. -/
def pinned (p : HostPins) (s : State) : State := { s with world := { s.world with pins := [p] } }

/-- A state inside START, at its first primitive. -/
def inStart (acks : List PadAck) : State := accept .start .single (scripted acks [])

theorem witness_DecodeOfEncodeIsTheCommand :
    (Instr.xferR 0x7F 1).wf Config.board = true ∧ (Instr.auxset 2 false).wf Config.board = true ∧
    (Instr.auxset 7 true).wf Config.board = true ∧ (Instr.xferW 0x00 0).wf Config.board = true := by decide

theorem witness_EncodeOfDecodeIsTheWord :
    decode Config.board 0x07FF7F01 = .ok (.xferR 0x7F 255) ∧ decode Config.board 0x0AFF00FF = .ok (.txwr 255 0xFF) := by
  decide

theorem witness_OpcodeMapSelectsExactlyOneRow :
    (fieldOP 0x00FFFFFF = 0x00 ∧ 0x0C ≤ (fieldOP 0x0C000000).toNat ∧ 0x0C ≤ (fieldOP 0xFFFFFFFF).toNat) ∧
    (0x07012901 : Word) &&& Opcode.mask .xferR = Opcode.pattern .xferR ∧
    rowSelects Config.board 0x07012901 .xferR ∧ rowSelects Config.board 0x09000701 .auxset := by
  unfold rowSelects
  decide

theorem witness_DecoderChecksInOrder :
    fieldOP 0x00000000 = 0x00 ∧ 0x0B < (fieldOP 0x0C000000).toNat ∧
    (1 ≤ (fieldOP 0x01000001).toNat ∧ (0x01000001 : Word) &&& Opcode.mask .start ≠ Opcode.pattern .start) ∧
    ((fieldOP 0x07002901).toNat ≤ 0x0B ∧ (0x07002901 : Word) &&& Opcode.mask .xferR = Opcode.pattern .xferR ∧
      fieldN 0x07002901 = 0) ∧
    ((0x09000101 : Word) &&& Opcode.mask .auxset = Opcode.pattern .auxset ∧
      Config.board.isI2c (fieldBit 0x09000101) = true) ∧
    ((fieldOP 0x0B000000).toNat ≤ 0x0B ∧ (0x0B000000 : Word) &&& Opcode.mask .rxrd = Opcode.pattern .rxrd) := by
  decide

theorem witness_WorkedEncodingsDecode : Config.board.isI2c 4 = false := by decide

theorem witness_StepRunsTheOfferedCommand :
    (pinned ⟨false, some 0x01000000, false⟩ (scripted [] [])).Ready ∧
    (pinned ⟨false, some 0x01000000, false⟩ (scripted [] [])).world.pins = [⟨false, some 0x01000000, false⟩] ∧
    decode Config.board 0x01000000 = .ok .start :=
  ⟨⟨rfl, rfl, rfl⟩, rfl, by decide⟩

theorem witness_IllegalWordChangesOnlyErr :
    (pinned ⟨false, some 0x07002901, true⟩ (scripted [] [])).Ready ∧
    ∀ r, ¬ rowSelects Config.board 0x07002901 r := by
  refine ⟨⟨rfl, rfl, rfl⟩, fun r => ?_⟩
  unfold rowSelects
  cases r <;> decide

theorem witness_CommandsAreAcceptedOnlyWhileNotBusy :
    ((inStart []).cfg.legal = true ∧ (inStart []).fsm ≠ .idle) ∧
    (({ scripted [] [] with rsp := some 0 } : State).rsp ≠ none) ∧
    ((scripted [] []).fsm = .idle ∧ (scripted [] []).rsp = none) :=
  ⟨⟨rfl, by decide⟩, by decide, rfl, rfl⟩

theorem witness_ResponseIsHeldUntilTaken :
    let s : State := { pinned ⟨false, some 0x01000000, true⟩ (scripted [] []) with rsp := some 0x00000001 }
    s.cfg.legal = true ∧ s.fsm = .idle ∧ s.rsp = some 0x00000001 ∧
      s.world.pins = [⟨false, some 0x01000000, true⟩] :=
  ⟨rfl, rfl, rfl, rfl⟩

theorem witness_ResetPutsEveryRegisterAtItsValue :
    Config.board.legal = true ∧ (pinned ⟨true, none, false⟩ (inStart [])).cfg.legal = true ∧
    (pinned ⟨true, none, false⟩ (inStart [])).world.hostPins.rst = true :=
  ⟨rfl, rfl, rfl⟩

theorem witness_FaultedPrimitiveEndsTheCommandAtOnce :
    nextLine (inStart [.fault]) = some (.sda true) ∧ (inStart [.fault]).world.ack = .fault := ⟨rfl, rfl⟩

theorem witness_OnePrimitiveMovesAtMostOneLine :
    (inStart [.done]).cfg.legal = true ∧ nextLine (inStart [.done]) = some (.sda true) ∧
    (inStart [.done]).world.ack = .done := ⟨rfl, rfl, rfl⟩

/-- The two clauses of `PerformsLines` for a command of m primitives: all done, and a first fault at any k below m. -/
theorem performsLines_witness (m k : Nat) (samples : List Bool) :
    ((scripted (dones m) samples).Ready ∧ (scripted (dones m) samples).world.AllDone m) ∧
    ((scripted (dones k ++ [.fault]) samples).Ready ∧ (scripted (dones k ++ [.fault]) samples).world.AllDone k ∧
      (scripted (dones k ++ [.fault]) samples).world.ackAt k = .fault) :=
  ⟨⟨scripted_ready _ _, scripted_done _ _⟩, scripted_ready _ _, scripted_fault _ _⟩

theorem witness_StartMakesTheStartCondition :
    ((scripted (dones 5) []).Ready ∧ (scripted (dones 5) []).world.AllDone 5) ∧
    (scripted (dones 4 ++ [.fault]) []).world.ackAt 4 = .fault :=
  ⟨(performsLines_witness 5 4 []).1, (performsLines_witness 5 4 []).2.2.2⟩

theorem witness_StopMakesTheStopCondition :
    ((scripted (dones 6) []).Ready ∧ (scripted (dones 6) []).world.AllDone 6) ∧
    (scripted (dones 5 ++ [.fault]) []).world.ackAt 5 = .fault :=
  ⟨(performsLines_witness 6 5 []).1, (performsLines_witness 6 5 []).2.2.2⟩

theorem witness_WbitSendsOneBit :
    ((scripted (dones 4) []).Ready ∧ (scripted (dones 4) []).world.AllDone 4) ∧
    (scripted (dones 0 ++ [.fault]) []).world.ackAt 0 = .fault :=
  ⟨(performsLines_witness 4 0 []).1, (performsLines_witness 4 0 []).2.2.2⟩

theorem witness_RbitReturnsTheSample :
    ((scripted (dones 4) [true]).Ready ∧ (scripted (dones 4) [true]).world.AllDone 4) ∧
    (scripted (dones 2 ++ [.fault]) []).world.ackAt 2 = .fault :=
  ⟨(performsLines_witness 4 2 [true]).1, (performsLines_witness 4 2 []).2.2.2⟩

theorem witness_WbyteSendsTheByteAndDetectsTheAck :
    ((inByte (dones 36) [false]).Ready ∧ (inByte (dones 36) [false]).world.AllDone 36 ∧
      (inByte (dones 36) [false]).scl = false) ∧
    ((scripted (dones 34 ++ [.fault]) []).world.AllDone 34 ∧
      (scripted (dones 34 ++ [.fault]) []).world.ackAt 34 = .fault) :=
  ⟨⟨⟨rfl, rfl, rfl⟩, scripted_done 36 [false], rfl⟩, scripted_fault 34 []⟩

theorem witness_RbyteReturnsTheSampledByte :
    ((inByte (dones 36) []).Ready ∧ (inByte (dones 36) []).world.AllDone 36 ∧ (inByte (dones 36) []).scl = false) ∧
    ((scripted (dones 35 ++ [.fault]) []).world.AllDone 35 ∧
      (scripted (dones 35 ++ [.fault]) []).world.ackAt 35 = .fault) ∧
    ((scripted (dones 2 ++ [.fault]) []).world.AllDone 2 ∧
      (scripted (dones 2 ++ [.fault]) []).world.ackAt 2 = .fault) :=
  ⟨⟨⟨rfl, rfl, rfl⟩, scripted_done 36 [], rfl⟩, scripted_fault 35 [], scripted_fault 2 []⟩

/-- The hypotheses of a write of n bytes, every ninth-bit sample 0, for every n. -/
theorem witness_WriteTransferSendsTheBuffer (n : Nat) :
    let s := scripted (dones (47 + 36 * n)) (List.replicate (n + 1) false ++ [])
    s.Ready ∧ s.world.AllDone (47 + 36 * n) ∧ ∀ k, k ≤ n → s.world.sampleAt s.cfg k = false :=
  ⟨scripted_ready _ _, scripted_done _ _, fun k hk => scripted_zeros _ _ _ k (Nat.lt_succ_of_le hk)⟩

/-- The hypotheses of a read of n bytes, the address acknowledged, for every n. -/
theorem witness_ReadTransferStoresTheSampledBytes (n : Nat) :
    let s := scripted (dones (47 + 36 * n)) (List.replicate 1 false ++ [])
    s.Ready ∧ (0xFF : Byte) ≠ 0 ∧ (0x01 : Byte) ≠ 0 ∧ s.world.AllDone (47 + 36 * n) ∧
      s.world.sampleAt s.cfg 0 = false :=
  ⟨scripted_ready _ _, by decide, by decide, scripted_done _ _, scripted_zeros _ 1 _ 0 (by omega)⟩

theorem witness_AddressNackEndsTheTransferWithAStop :
    let s := scripted (dones 47) (List.replicate 0 false ++ [true])
    s.Ready ∧ s.world.AllDone 47 ∧ s.world.sampleAt s.cfg 0 = true :=
  ⟨scripted_ready _ _, scripted_done _ _, scripted_next _ 0 true []⟩

/-- The hypotheses of a write refused at its payload byte c: for every c, c = 0 with n = 1 and c = 254 with n = 255
among them; and a write whose response carries DATA_NACKED. -/
theorem witness_DataNackEndsTheWriteWithAStop (c : Nat) :
    (let s := scripted (dones (47 + 36 * (c + 1))) (List.replicate (c + 1) false ++ [true])
     s.Ready ∧ (0x00 : Byte) < 0x01 ∧ (0xFE : Byte) < 0xFF ∧ s.world.AllDone (47 + 36 * (c + 1)) ∧
      (∀ k, k ≤ c → s.world.sampleAt s.cfg k = false) ∧ s.world.sampleAt s.cfg (c + 1) = true) ∧
    (answer (.xferW 0x29 1) (scripted (dones 83) [false, true])).map rspST = some 0x02 :=
  ⟨⟨scripted_ready _ _, by decide, by decide, scripted_done _ _,
    fun k hk => scripted_zeros _ _ _ k (Nat.lt_succ_of_le hk), scripted_next _ (c + 1) true []⟩, by decide +kernel⟩

/-- The three clauses: after an address NACK, after the NACK of payload byte c, after a stuck recovery, at every k. -/
theorem witness_FaultInTheStopReplacesTheNack (c k : Nat) :
    (let s := scripted (dones (41 + k) ++ [.fault]) (List.replicate 0 false ++ [true])
     s.Ready ∧ s.world.AllDone (41 + k) ∧ s.world.sampleAt s.cfg 0 = true ∧ s.world.ackAt (41 + k) = .fault) ∧
    (let s := scripted (dones (41 + 36 * (c + 1) + k) ++ [.fault]) (List.replicate (c + 1) false ++ [true])
     s.Ready ∧ (0x00 : Byte) < 0x01 ∧ (0xFE : Byte) < 0xFF ∧ s.world.AllDone (41 + 36 * (c + 1) + k) ∧
      (∀ j, j ≤ c → s.world.sampleAt s.cfg j = false) ∧ s.world.sampleAt s.cfg (c + 1) = true ∧
      s.world.ackAt (41 + 36 * (c + 1) + k) = .fault) ∧
    (let s := scripted (dones (32 + k) ++ [.fault]) (List.replicate 11 false ++ [])
     s.Ready ∧ s.world.AllDone (32 + k) ∧ (∀ j, j ≤ 10 → s.world.sampleAt s.cfg j = false) ∧
      s.world.ackAt (32 + k) = .fault) :=
  ⟨⟨scripted_ready _ _, (scripted_fault _ _).1, scripted_next _ 0 true [], (scripted_fault _ _).2⟩,
    ⟨scripted_ready _ _, by decide, by decide, (scripted_fault _ _).1,
      fun j hj => scripted_zeros _ _ _ j (Nat.lt_succ_of_le hj), scripted_next _ (c + 1) true [], (scripted_fault _ _).2⟩,
    scripted_ready _ _, (scripted_fault _ _).1, fun j hj => scripted_zeros _ _ _ j (Nat.lt_succ_of_le hj),
    (scripted_fault _ _).2⟩

theorem witness_TransferEndsWithAStopAndIdle :
    (scripted (dones 47) [true]).Ready ∧
    (nextState (exec (.xferW 0x29 0) (scripted (dones 47) [true]))).map (fun t => (t.fsm, t.err)) =
      some (.idle, 0x01) ∧
    (nextState (exec (.xferR 0x29 1) (scripted (dones 83) (List.replicate 9 false)))).map (fun t => (t.fsm, t.err)) =
      some (.idle, 0x00) :=
  ⟨scripted_ready _ _, by decide +kernel, by decide +kernel⟩

/-- The two symbol statements add to the hypotheses of the two transfer statements that exec answers next. -/
theorem witness_TransferSymbols (addr : BitVec 7) (s : State) :
    (∃ t, exec (.xferW addr 255) s = .next t) ∧ ∃ t, exec (.xferR addr 255) s = .next t := ⟨⟨_, rfl⟩, _, rfl⟩

/-- The single-step statements: as the transfer statements, for every n; the write's address may also be refused. -/
theorem witness_WriteTransferEqualsSingleSteps (n : Nat) :
    (scripted (dones (47 + 36 * n)) [true]).Ready ∧
    (scripted (dones (47 + 36 * n)) [true]).world.AllDone (47 + 36 * n) :=
  ⟨scripted_ready _ _, scripted_done _ _⟩

theorem witness_ReadTransferEqualsSingleSteps :
    let s := scripted (dones (47 + 36 * 255)) (List.replicate 1 false ++ [])
    s.Ready ∧ s.world.AllDone (47 + 36 * 255) ∧ s.world.sampleAt s.cfg 0 = false :=
  ⟨scripted_ready _ _, scripted_done _ _, scripted_zeros _ 1 _ 0 (by omega)⟩

theorem witness_RecoverOfAFreeLine :
    (let s := scripted (dones 2) (List.replicate 0 false ++ [true])
     s.Ready ∧ s.world.AllDone (if false then 8 else 2) ∧ s.world.sampleAt s.cfg 0 = true) ∧
    (let s := scripted (dones 8) (List.replicate 0 false ++ [true])
     s.Ready ∧ s.world.AllDone (if true then 8 else 2) ∧ s.world.sampleAt s.cfg 0 = true) ∧
    (let s := scripted (dones 38) (List.replicate 1 false ++ [])
     s.Ready ∧ s.world.AllDone 38 ∧ s.world.sampleAt s.cfg 0 = false) :=
  ⟨⟨scripted_ready _ _, scripted_done 2 _, scripted_next _ 0 true []⟩,
    ⟨scripted_ready _ _, scripted_done 8 _, scripted_next _ 0 true []⟩,
    scripted_ready _ _, scripted_done 38 _, scripted_zeros _ 1 _ 0 (by omega)⟩

/-- The hypotheses of a line released after p pulses, for every p. -/
theorem witness_RecoverOfALineReleasedAfterPulses (p : Nat) :
    let s := scripted (dones (8 + 3 * p)) (List.replicate p false ++ [true])
    s.Ready ∧ s.world.AllDone (8 + 3 * p) ∧ (∀ k, k < p → s.world.sampleAt s.cfg k = false) ∧
      s.world.sampleAt s.cfg p = true :=
  ⟨scripted_ready _ _, scripted_done _ _, fun k hk => scripted_zeros _ _ _ k hk, scripted_next _ p true []⟩

theorem witness_RecoverOfAStuckLine :
    let s := scripted (dones 38) (List.replicate 11 false ++ [])
    s.Ready ∧ s.world.AllDone 38 ∧ ∀ k, k ≤ 10 → s.world.sampleAt s.cfg k = false :=
  ⟨scripted_ready _ _, scripted_done _ _, fun k hk => scripted_zeros _ _ _ k (Nat.lt_succ_of_le hk)⟩

/-- RecoverEndsAsItsSamplesSay: a run of each of its outcomes (CNT 0, 10, stuck). -/
theorem witness_RecoverEndsAsItsSamplesSay :
    (scripted (dones 38) []).Ready ∧ (scripted (dones 38) []).world.AllDone 38 ∧
    answer (.recover false) (scripted (dones 38) [true]) = some (packWord 0x00 0 0 0) ∧
    answer (.recover false) (scripted (dones 38) (List.replicate 10 false ++ [true])) = some (packWord 0x00 10 0 0) ∧
    answer (.recover true) (scripted (dones 38) (List.replicate 11 false)) = some (packWord 0x04 10 0 0) :=
  ⟨scripted_ready _ _, scripted_done _ _, by decide +kernel, by decide +kernel, by decide +kernel⟩

theorem witness_AuxsetWritesOneAuxiliaryBit :
    ((scripted (dones 2) []).Ready ∧ (scripted (dones 2) []).world.AllDone 2 ∧ Config.board.isI2c 2 = false ∧
      Config.board.isI2c 7 = false) ∧
    ((scripted [.done, .fault] []).world.ackAt 0 = .done ∧ (scripted [.done, .fault] []).world.ackAt 1 = .fault) ∧
    (Config.board.isI2c 0 = true ∧ Config.board.isI2c 1 = true) :=
  ⟨⟨scripted_ready _ _, scripted_done _ _, by decide, by decide⟩, ⟨rfl, rfl⟩, by decide, by decide⟩

theorem witness_TxwrStoresOneByte : (scripted [] []).Ready ∧ (0xFF : Byte) ≠ 0x00 := ⟨scripted_ready _ _, by decide⟩

theorem witness_RxrdAnswersTheBufferByte : (scripted [] []).Ready := scripted_ready _ _

/-- The hypothesis of the frames and the whole-machine rules that exec answers next is met by every command from every
state. -/
theorem witness_exec_answers_next (i : Instr) (s : State) : ∃ t, exec i s = .next t := by
  cases i with
  | xferR addr n =>
    by_cases h : n = 0
    · exact ⟨illegalCmd s, by simp [exec, execXferR, h]⟩
    · exact ⟨_, by simp only [exec, execXferR, if_neg h]; rfl⟩
  | auxset bit value =>
    by_cases h : s.cfg.isI2c bit = true
    · exact ⟨illegalCmd s, by simp [exec, execAuxset, h]⟩
    · exact ⟨_, by simp only [exec, execAuxset, if_neg h]; rfl⟩
  | start => exact ⟨_, rfl⟩
  | stop => exact ⟨_, rfl⟩
  | wbit _ => exact ⟨_, rfl⟩
  | rbit => exact ⟨_, rfl⟩
  | wbyte _ => exact ⟨_, rfl⟩
  | rbyte _ => exact ⟨_, rfl⟩
  | xferW _ _ => exact ⟨_, rfl⟩
  | recover _ => exact ⟨_, rfl⟩
  | txwr _ _ => exact ⟨_, rfl⟩
  | rxrd _ => exact ⟨_, rfl⟩

/-- BuffersHaveOneWriterEach: a TXBUF entry and an RXBUF entry that do change. -/
theorem witness_BuffersHaveOneWriterEach :
    (nextState (exec (.txwr 3 0x55) { scripted [] [] with txbuf := [(3, 0x11)] })).map (fun t => readTx t 3) =
      some 0x55 ∧
    (nextState (exec (.xferR 0x29 1) { scripted (dones 83) (List.replicate 9 false) with rxbuf := [(0, 0x11)] })).map
      (fun t => readRx t 0) = some 0x00 := by
  constructor <;> decide +kernel

/-- AckFlagIsWrittenBySentBytesOnly: a WBYTE that changes ACKF. -/
theorem witness_AckFlagIsWrittenBySentBytesOnly :
    (nextState (exec (.wbyte 0x00) (scripted (dones 36) [false]))).map (fun t => (t.ackf, (scripted [] []).ackf)) =
      some (true, false) := by decide +kernel

theorem witness_ClockDirectionIsNeverWritten : (scripted [] []).cfg.legal = true ∧ (scripted [] []).sclOe = true :=
  ⟨rfl, rfl⟩

/-- ErrGatesNothing, FaultIsLastAndIsTheTimeout: commands with a response, with a fault, and cut by a wait. -/
theorem witness_ErrGatesNothing :
    (nextState (exec .start (scripted (dones 5) []))).map (fun t => t.rsp) = some (some 0x00000000) ∧
    (nextState (exec .start (scripted [.wait] []))).map (fun t => t.rsp) = some none ∧
    (nextState (exec .start (scripted [.fault] []))).map (fun t => (t.trace, t.err)) = some ([.fault], 0x03) := by
  refine ⟨?_, ?_, ?_⟩ <;> decide +kernel

theorem witness_EveryCommandEndsWithinItsBound (n : Nat) :
    (scripted (dones n) []).Ready ∧ (scripted (dones n) []).world.NoWait n :=
  ⟨scripted_ready _ _, (scripted_done n []).noWait⟩

theorem witness_PausedCommandResumesUnchanged :
    (scripted [] []).Ready ∧ Instr.start.wf Config.board = true ∧ (scripted [] []).world.pins = [] ∧
    (nextState (exec .start (scripted ([.done, .done] ++ .wait :: [.done, .done, .done]) []))).map (fun t => t.fsm) =
      some .single :=
  ⟨scripted_ready _ _, rfl, rfl, by decide +kernel⟩

theorem witness_InvariantHoldsAtReset : Config.board.legal = true := rfl

theorem witness_StepKeepsTheInvariant :
    (scripted [] []).Inv ∧ ∃ t, step (scripted [] []) = .next t := ⟨scripted_inv _ _, _, rfl⟩

/-- The hypotheses of read_register with everything acknowledged, for every length. -/
theorem witness_ReadRegisterReturnsTheSampledBytes (len : Nat) :
    let s := scripted (dones (83 + 47 + 36 * len)) (List.replicate 3 false ++ [])
    s.Ready ∧ s.Inv ∧ s.world.AllDone (83 + 47 + 36 * len) ∧ ∀ k, k < 3 → s.world.sampleAt s.cfg k = false :=
  ⟨scripted_ready _ _, scripted_inv _ _, scripted_done _ _, fun k hk => scripted_zeros _ _ _ k hk⟩

theorem witness_ReadRegisterSkipsTheReadPhase :
    let s := scripted (dones 47) (List.replicate 0 false ++ [true])
    s.Ready ∧ s.Inv ∧ s.world.AllDone 47 ∧ s.world.sampleAt s.cfg 0 = true :=
  ⟨scripted_ready _ _, scripted_inv _ _, scripted_done _ _, scripted_next _ 0 true []⟩

/-- with_retry: a result handed through (a success, an ordinary failure), and after failure(BUS_TIMEOUT) a recovery that
is stuck, one that faults at its first or second primitive, one that finds the line free, and one that answers OK. -/
theorem witness_RetryRecoversOnlyFromATimeout (t : State) (k : Nat) :
    ((HostResult.ok [0x44] : HostResult (List Byte)) ≠ .failure 0x03 ∧
      (HostResult.failure 0x01 : HostResult (List Byte)) ≠ .failure 0x03) ∧
    (let op : State → State × HostResult (List Byte) := fun _ => (t, .failure 0x03)
     op t = (t, .failure 0x03)) ∧
    (let s := scripted (dones 38) (List.replicate 11 false ++ [])
     s.Ready ∧ s.Inv ∧ s.world.AllDone 38 ∧ ∀ j, j ≤ 10 → s.world.sampleAt s.cfg j = false) ∧
    (let s := scripted (dones k ++ [.fault]) []
     s.Ready ∧ s.Inv ∧ s.world.AllDone k ∧ s.world.ackAt k = .fault) ∧
    (let s := scripted (dones 8) (List.replicate 0 false ++ [true])
     s.Ready ∧ s.Inv ∧ s.world.AllDone 8 ∧ s.world.sampleAt s.cfg 0 = true ∧
      (issue (encode (.recover true)) s).map (fun p => rspST p.2) = some 0x00) :=
  ⟨⟨by decide, by decide⟩, rfl,
    ⟨scripted_ready _ _, scripted_inv _ _, scripted_done _ _,
      fun j hj => scripted_zeros _ _ _ j (Nat.lt_succ_of_le hj)⟩,
    ⟨scripted_ready _ _, scripted_inv _ _, scripted_fault _ _⟩,
    scripted_ready _ _, scripted_inv _ _, scripted_done _ _, scripted_next _ 0 true [], by decide +kernel⟩

end Sys2Proof.Tests
end

section
/-! PROOFS. Where a run begins: the entry state of each command, and `exec` as the run from it. -/

namespace Sys2Proof.Machine

/-- The state in which the run of a command begins: accepted with its operands latched (R31, R40), or, for a command
without primitives and for a command that no word encodes, already answered. -/
def entry (s : State) : Instr → State
  | .start => accept .start .single s
  | .stop => accept .stop .single s
  | .wbit b => accept (.wbit b) .single s
  | .rbit => accept .rbit .single s
  | .wbyte byte => loadByte byte (accept (.wbyte byte) .single s)
  | .rbyte sendAck => loadByte 0 (accept (.rbyte sendAck) .single s)
  | .xferW addr n => latchTransfer addr false n (accept (.xferW addr n) .start s)
  | .xferR addr n =>
    if n = 0 then illegalCmd s else latchTransfer addr true n (accept (.xferR addr n) .start s)
  | .recover force => latchRecovery force (accept (.recover force) .recSample s)
  | .auxset bit value => if s.cfg.isI2c bit then illegalCmd s else accept (.auxset bit value) .single s
  | .txwr idx byte => respond .ok 0 0 (writeTx idx byte s)
  | .rxrd idx => respond .ok 0 (readRx s idx) s

variable {s t : State}

/-- A command of an idle engine is the run from its entry state; an answered entry state is idle, so its run is
empty. -/
theorem exec_eq_advance_entry (i : Instr) (hs : s.fsm = .idle) :
    exec i s = .next (advance Config.maxPrimitives (entry s i)) := by
  have hill : (illegalCmd s).fsm = .idle := hs
  cases i with
  | xferR addr n =>
    simp only [exec, execXferR, entry]
    split
    · rw [advance_idle hill]
    · rfl
  | auxset bit value =>
    simp only [exec, execAuxset, entry]
    split
    · rw [advance_idle hill]
    · rfl
  | txwr idx byte => rw [entry, advance_idle (respond_fsm ..)]; rfl
  | rxrd idx => rw [entry, advance_idle (respond_fsm ..)]; rfl
  | start | stop | wbit | rbit | wbyte | rbyte | xferW | recover => rfl

/-- Accepting a command performs no primitive. -/
@[simp] theorem entry_trace (s : State) (i : Instr) : (entry s i).trace = s.trace := by
  cases i with
  | xferR addr n => simp only [entry]; split <;> rfl
  | auxset bit value => simp only [entry]; split <;> rfl
  | start | stop | wbit | rbit | wbyte | rbyte | xferW | recover | txwr | rxrd => rfl

end Sys2Proof.Machine
end

section
/-! PROOFS. BUS_TIMEOUT and FAULT (R11, R204): without a FAULT no response, and no pending status of STOP, is
BUS_TIMEOUT; a FAULT ends its command. -/

namespace Sys2Proof.Machine

variable {s t : State}

/-- Each status has its own code, so the code 0x03 is BUS_TIMEOUT's alone (R96). -/
theorem Status.code_eq_busTimeout {st : Status} : st.code = 0x03 ↔ st = .busTimeout := by
  cases st <;> decide

/-- No BUS_TIMEOUT is reported, and none is about to be: an idle engine's ERR is another code, and so is the status
that a STOP state will report. -/
structure State.TimeoutFree (s : State) : Prop where
  answered : s.fsm = .idle → s.err ≠ 0x03
  pending : s.fsm = .stop → s.stopStatus ≠ .busTimeout

/-! ### The transitions keep it -/

/-- In the states other than IDLE and STOP there is nothing to show. -/
theorem TimeoutFree_of_fsm (hi : s.fsm ≠ .idle) (hp : s.fsm ≠ .stop) : s.TimeoutFree :=
  ⟨fun h => absurd h hi, fun h => absurd h hp⟩

/-- Only FSM, ERR and the pending status count. -/
theorem TimeoutFree_congr (h : s.TimeoutFree) (hf : t.fsm = s.fsm) (he : t.err = s.err)
    (hst : t.stopStatus = s.stopStatus) : t.TimeoutFree :=
  ⟨by rw [hf, he]; exact h.answered, by rw [hf, hst]; exact h.pending⟩

theorem TimeoutFree_respond {st : Status} (c v : Byte) (hst : st ≠ .busTimeout) : (respond st c v s).TimeoutFree :=
  ⟨fun _ => mt Status.code_eq_busTimeout.mp hst, nofun⟩

theorem TimeoutFree_enter {f : Fsm} (hi : f ≠ .idle) (hp : f ≠ .stop) : (enter f s).TimeoutFree :=
  TimeoutFree_of_fsm hi hp

theorem TimeoutFree_enterStop {st : Status} (hst : st ≠ .busTimeout) : (enterStop st s).TimeoutFree :=
  ⟨nofun, fun _ => hst⟩

theorem TimeoutFree_enterData : (enterData s).TimeoutFree := TimeoutFree_enter nofun nofun

theorem TimeoutFree_countByte : (countByte s).TimeoutFree := by
  simp only [countByte]
  split
  · exact TimeoutFree_enterStop nofun
  · exact TimeoutFree_enterData

theorem TimeoutFree_finishAckAddr : (finishAckAddr s).TimeoutFree := by
  simp only [finishAckAddr]
  split
  · exact TimeoutFree_enterStop nofun
  · split
    · exact TimeoutFree_enterStop nofun
    · exact TimeoutFree_enterData

theorem TimeoutFree_finishDataBit : (finishDataBit s).TimeoutFree := by
  simp only [finishDataBit]
  repeat' split
  all_goals exact TimeoutFree_enter nofun nofun

theorem TimeoutFree_finishAckData : (finishAckData s).TimeoutFree := by
  simp only [finishAckData]
  split
  · exact TimeoutFree_countByte
  · split
    · exact TimeoutFree_countByte
    · exact TimeoutFree_enterStop nofun

theorem TimeoutFree_finishRecSample : (finishRecSample s).TimeoutFree := by
  simp only [finishRecSample]
  split
  · split
    · exact TimeoutFree_enterStop nofun
    · exact TimeoutFree_respond _ _ nofun
  · exact TimeoutFree_enter nofun nofun

theorem TimeoutFree_finishRecPulse : (finishRecPulse s).TimeoutFree := by
  simp only [finishRecPulse]
  split
  · exact TimeoutFree_enterStop nofun
  · split
    · exact TimeoutFree_enter nofun nofun
    · exact TimeoutFree_enterStop nofun

theorem TimeoutFree_finishSingle (h : s.TimeoutFree) (i : Instr) : (finishSingle s i).TimeoutFree := by
  cases i with
  | start | stop | wbit | rbit | auxset => exact TimeoutFree_respond _ _ nofun
  | wbyte | rbyte =>
    simp only [finishSingle]
    split
    · exact TimeoutFree_respond _ _ nofun
    · exact TimeoutFree_enter nofun nofun
  | xferW | xferR | recover | txwr | rxrd => exact h

/-- The end of a sub-sequence reports BUS_TIMEOUT only as the status that STOP was entered with, and no transition
enters STOP with it (R146, R161). -/
theorem TimeoutFree_finishSeq (h : s.TimeoutFree) : (finishSeq s).TimeoutFree := by
  cases hf : s.fsm with
  | idle => simpa only [finishSeq, hf] using h
  | start =>
    simp only [finishSeq, hf]
    exact TimeoutFree_enter nofun nofun
  | address =>
    simp only [finishSeq, hf]
    split <;> exact TimeoutFree_enter nofun nofun
  | ackAddr => simpa only [finishSeq, hf] using TimeoutFree_finishAckAddr
  | dataPhase => simpa only [finishSeq, hf] using TimeoutFree_finishDataBit
  | ackData => simpa only [finishSeq, hf] using TimeoutFree_finishAckData
  | stop => simpa only [finishSeq, hf] using TimeoutFree_respond _ _ (h.pending hf)
  | recSample => simpa only [finishSeq, hf] using TimeoutFree_finishRecSample
  | recPulse => simpa only [finishSeq, hf] using TimeoutFree_finishRecPulse
  | single =>
    simp only [finishSeq, hf]
    split
    · exact TimeoutFree_finishSingle h _
    · exact h

theorem TimeoutFree_countPulse (h : s.TimeoutFree) : (countPulse s).TimeoutFree := by
  unfold countPulse
  split
  · exact TimeoutFree_congr h rfl rfl rfl
  · exact h

theorem TimeoutFree_advancePhase (h : s.TimeoutFree) : (advancePhase s).TimeoutFree := by
  unfold advancePhase
  split
  · exact TimeoutFree_congr h rfl rfl rfl
  · exact TimeoutFree_finishSeq h

theorem TimeoutFree_perform (l : Line) (h : s.TimeoutFree) : (perform l (takeAck s)).TimeoutFree :=
  TimeoutFree_congr h (by simp) (by simp) (by simp)

/-- A primitive that does not fault. -/
theorem TimeoutFree_primStep (h : s.TimeoutFree) (ha : s.world.ack ≠ .fault) : (primStep s).TimeoutFree := by
  cases hl : nextLine s with
  | none => simpa only [primStep, hl] using h
  | some l =>
    cases hk : s.world.ack with
    | done =>
      rw [primStep_done hl hk]
      exact TimeoutFree_advancePhase (TimeoutFree_countPulse (TimeoutFree_perform l h))
    | fault => exact absurd hk ha
    | wait =>
      rw [primStep_wait hl hk]
      exact TimeoutFree_congr h rfl rfl rfl

theorem TimeoutFree_illegalCmd (hs : s.fsm = .idle) : (illegalCmd s).TimeoutFree :=
  ⟨fun _ => mt (Status.code_eq_busTimeout (st := .illegalCmd)).mp nofun, fun hp => nomatch hs.symm.trans hp⟩

/-- A command of an idle engine begins without BUS_TIMEOUT, whatever ERR and the pending status were. -/
theorem TimeoutFree_entry (i : Instr) (hs : s.fsm = .idle) : (entry s i).TimeoutFree := by
  cases i with
  | xferR addr n =>
    simp only [entry]
    split
    · exact TimeoutFree_illegalCmd hs
    · exact TimeoutFree_of_fsm nofun nofun
  | auxset bit value =>
    simp only [entry]
    split
    · exact TimeoutFree_illegalCmd hs
    · exact TimeoutFree_of_fsm nofun nofun
  | txwr | rxrd => exact TimeoutFree_respond _ _ nofun
  | start | stop | wbit | rbit | wbyte | rbyte | xferW | recover => exact TimeoutFree_of_fsm nofun nofun

/-! ### The events of a run -/

/-- The two shapes of a command's events so far: none is a FAULT and no BUS_TIMEOUT is reported, or the last one alone
is a FAULT and the engine is idle with BUS_TIMEOUT in ERR. -/
def FaultEndsWithTimeout (es : List Event) (s : State) : Prop :=
  (Event.fault ∉ es ∧ s.TimeoutFree) ∨
  (s.fsm = .idle ∧ s.err = 0x03 ∧ ∃ ds, es = ds ++ [.fault] ∧ Event.fault ∉ ds)

theorem FaultEndsWithTimeout.not_mem_init {es l : List Event} {e : Event} (h : FaultEndsWithTimeout es s)
    (he : es = l ++ [e]) : Event.fault ∉ l := by
  rcases h with ⟨hn, -⟩ | ⟨-, -, ds, hds, hn⟩
  · exact fun hl => hn (by simp [he, hl])
  · rwa [(List.append_inj' (he.symm.trans hds) rfl).1]

theorem FaultEndsWithTimeout.err_iff {es : List Event} (h : FaultEndsWithTimeout es s) (hi : s.fsm = .idle) :
    s.err = 0x03 ↔ Event.fault ∈ es := by
  rcases h with ⟨hn, ht⟩ | ⟨-, he, ds, hds, -⟩
  · exact iff_of_false (ht.answered hi) hn
  · exact iff_of_true he (by simp [hds])

/-- One primitive of a busy engine adds a completed line step, nothing, or the FAULT that ends the command. -/
theorem primStep_faultEndsWithTimeout {es : List Event} (h : FaultEndsWithTimeout es s) (hb : s.fsm ≠ .idle) :
    ∃ ds, (primStep s).trace = s.trace ++ ds ∧ FaultEndsWithTimeout (es ++ ds) (primStep s) := by
  obtain ⟨hn, ht⟩ | ⟨hi, -⟩ := h
  · obtain ⟨he, -⟩ | ⟨l, -, ⟨ha, hd⟩ | ⟨ha, hw⟩ | ⟨-, w, hf⟩⟩ := primStep_cases s
    · exact ⟨[], by simp [he], .inl ⟨by simpa using hn, by rwa [he]⟩⟩
    · obtain ⟨v, hv⟩ := perform_trace l (takeAck s)
      exact ⟨[.done l v], hd.trace.trans hv, .inl ⟨by simp [hn], TimeoutFree_primStep ht (by simp [ha])⟩⟩
    · exact ⟨[], by simp [hw], .inl ⟨by simpa using hn, TimeoutFree_primStep ht (by simp [ha])⟩⟩
    · exact ⟨[.fault], by simp [hf], .inr ⟨by simp [hf], by simp [hf, Status.code], es, rfl, hn⟩⟩
  · exact absurd hi hb

theorem advance_faultEndsWithTimeout (k : Nat) (h : s.TimeoutFree) :
    ∃ es, (advance k s).trace = s.trace ++ es ∧ FaultEndsWithTimeout es (advance k s) := by
  refine advance_induction (P := fun u => ∃ es, u.trace = s.trace ++ es ∧ FaultEndsWithTimeout es u) ?_ k
    ⟨[], by simp, .inl ⟨List.not_mem_nil, h⟩⟩
  rintro u ⟨es, hu, hes⟩ hb
  obtain ⟨ds, hd, hds⟩ := primStep_faultEndsWithTimeout hes hb
  exact ⟨es ++ ds, by rw [hd, hu, List.append_assoc], hds⟩

/-- Settles O49: the run from the entry state keeps the two shapes of `FaultEndsWithTimeout`. -/
theorem faultIsLastAndIsTheTimeout : Obligations.FaultIsLastAndIsTheTimeout := by
  unfold Obligations.FaultIsLastAndIsTheTimeout
  intro s t i hs h
  rw [exec_eq_advance_entry i hs.idle] at h
  cases h
  obtain ⟨es, htr, hes⟩ := advance_faultEndsWithTimeout Config.maxPrimitives (TimeoutFree_entry i hs.idle)
  rw [entry_trace] at htr
  exact ⟨es, htr, fun l e he => hes.not_mem_init he, hes.err_iff⟩

end Sys2Proof.Machine
end

section
/-! PROOFS. What one step is, case by case: reset, a command in progress, a waiting response, the command port (R36,
R40, R41, R47, R230). -/

namespace Sys2Proof.Machine

variable {s : State}

theorem hostPins_of_pins {w : World} {p : HostPins} {rest : List HostPins} (h : w.pins = p :: rest) :
    w.hostPins = p := by
  simp only [World.hostPins, h]

theorem takePins_of_pins {p : HostPins} {rest : List HostPins} (h : s.world.pins = p :: rest) :
    takePins s = { s with world := { s.world with pins := rest } } := by
  simp only [takePins, World.dropPins, h, List.tail_cons]

/-- rst_n = 0 resets, whatever the engine is doing (R230). -/
theorem step_reset (hl : s.cfg.legal = true) (hp : s.world.hostPins.rst = true) :
    step s = .next (applyReset (takePins s)) := by
  simp [step, hl, hp]

/-- A busy engine goes on with its command and reads nothing of the command port (R40). -/
theorem step_busy (hl : s.cfg.legal = true) (hp : s.world.hostPins.rst = false) (hb : s.fsm ≠ .idle) :
    step s = if lost (takePins s) then .fault .sequencerLost else runCommand (takePins s) := by
  simp [step, hl, hp, hb]

/-- A busy engine whose position names a primitive runs. -/
theorem step_runs (hl : s.cfg.legal = true) (hp : s.world.hostPins.rst = false) (hb : s.fsm ≠ .idle)
    (hn : (nextLine s).isSome = true) : step s = .next (advance Config.maxPrimitives (takePins s)) := by
  have hlost : lost (takePins s) = false := by
    show (nextLine s).isNone = false
    simpa using hn
  rw [step_busy hl hp hb, hlost]
  rfl

/-- A waiting response is held until rsp_ready, and the command port is not read (R41, log 20). -/
theorem step_waiting {r : Word} (hl : s.cfg.legal = true) (hp : s.world.hostPins.rst = false) (hi : s.fsm = .idle)
    (hr : s.rsp = some r) :
    step s = .next (if s.world.hostPins.rspReady then takeResponse (takePins s) else takePins s) := by
  simp [step, hl, hp, hi, hr]

/-- A ready engine with no word on the command port only reads the pins. -/
theorem step_quiet (hs : s.Ready) (hp : s.world.hostPins.rst = false) (ho : s.world.hostPins.cmd = none) :
    step s = .next (takePins s) := by
  simp [step, hs.legal, hs.idle, hs.noResponse, hp, offered, ho]

/-- A ready engine answers a word that does not decode (R94, R206). -/
theorem step_illegal {w : Word} {e : Illegal} (hs : s.Ready) (hp : s.world.hostPins.rst = false)
    (ho : s.world.hostPins.cmd = some w) (hd : decode s.cfg w = .error e) :
    step s = .next (illegalCmd (takePins s)) := by
  simp [step, hs.legal, hs.idle, hs.noResponse, hp, offered, ho, hd]

/-- A ready engine runs a word that decodes (R40). -/
theorem step_accept {w : Word} {i : Instr} (hs : s.Ready) (hp : s.world.hostPins.rst = false)
    (ho : s.world.hostPins.cmd = some w) (hd : decode s.cfg w = .ok i) : step s = exec i (takePins s) := by
  simp [step, hs.legal, hs.idle, hs.noResponse, hp, offered, ho, hd]

/-- Settles O7: `step_accept`, with the pins written out. -/
theorem stepRunsTheOfferedCommand : Obligations.StepRunsTheOfferedCommand := by
  unfold Obligations.StepRunsTheOfferedCommand
  intro s w ready rest i hs hp hd
  have hh := hostPins_of_pins hp
  rw [step_accept hs (by rw [hh]) (by rw [hh]) hd, takePins_of_pins hp]

/-- Settles O10: `step_waiting`, with the pins written out. -/
theorem responseIsHeldUntilTaken : Obligations.ResponseIsHeldUntilTaken := by
  unfold Obligations.ResponseIsHeldUntilTaken
  intro s r cmd ready rest hl hi hr hp
  have hh := hostPins_of_pins hp
  rw [step_waiting hl (by rw [hh]) hi hr, takePins_of_pins hp, hh]
  cases ready with
  | true => rfl
  | false => simp [← hr]

/-! ### Reset -/

theorem resetWith_atResetValues {c : Config} (hc : c.legal = true) : (State.resetWith c).AtResetValues := by
  have hne : c.sclBit ≠ c.sdaBit := by simpa [Config.legal] using hc
  constructor <;> try rfl
  case line =>
    simp [State.lineState, State.scl, State.sda, State.sdaOe, State.resetWith, testBit_resetPortOut,
      testBit_resetPortDir, Config.isI2c, hne.symm]
  case clockDriven => simp [State.sclOe, State.resetWith, testBit_resetPortDir]
  case auxOut =>
    intro i hi
    simpa [State.resetWith, testBit_resetPortOut] using hi
  case auxDir =>
    intro i hi
    have haux : i ≠ c.sclBit ∧ i ≠ c.sdaBit := by simpa [State.resetWith, Config.isI2c] using hi
    simp [State.resetWith, testBit_resetPortDir, haux.1]
  case txbuf => exact fun _ => rfl
  case rxbuf => exact fun _ => rfl

/-- The reset values are those of `resetWith`; only the trace, the reset count and the inputs are kept (R230). -/
theorem applyReset_atResetValues (hl : s.cfg.legal = true) : (applyReset s).AtResetValues :=
  { resetWith_atResetValues hl with }

/-- Settles O11: the step with rst_n = 0 is `applyReset`, which keeps the configuration and the trace. -/
theorem resetPutsEveryRegisterAtItsValue : Obligations.ResetPutsEveryRegisterAtItsValue := by
  unfold Obligations.ResetPutsEveryRegisterAtItsValue
  refine ⟨fun c hc => resetWith_atResetValues hc, fun s hl hp => ?_⟩
  exact ⟨_, step_reset hl hp, applyReset_atResetValues hl, applyReset_trace _, applyReset_cfg _⟩

end Sys2Proof.Machine
end

section
/-! PROOFS. The invariant holds at reset and every step keeps it. -/

namespace Sys2Proof.Machine

variable {s : State}

/-! ### Reset -/

theorem Inv_resetWith {c : Config} (hc : c.legal = true) : (State.resetWith c).Inv where
  legal := hc
  clockDriven := by simp [State.sclOe, State.resetWith, testBit_resetPortDir]
  txWf := rfl
  rxWf := rfl
  bitcntRange := Nat.zero_le _
  pulsecntRange := Nat.zero_le _
  phaseRange := fun h => absurd rfl h
  position := ⟨rfl, rfl⟩
  stopStatusRange := .inl rfl
  oneAtATime := fun h => absurd rfl h
  errCode := .inl rfl
  rspForm := nofun

theorem Inv_applyReset (hl : s.cfg.legal = true) : (applyReset s).Inv :=
  Inv_congr (Inv_resetWith hl) rfl rfl rfl rfl rfl rfl rfl rfl rfl rfl rfl rfl rfl rfl rfl rfl rfl rfl

/-- Settles O52: the reset values of R47 are in the ranges of the invariant. -/
theorem invariantHoldsAtReset : Obligations.InvariantHoldsAtReset := by
  unfold Obligations.InvariantHoldsAtReset
  exact fun c hc => Inv_resetWith hc

/-! ### Accepting a command -/

/-- The address byte as a number (R93). -/
theorem addressByte_toNat (addr : BitVec 7) (isRead : Bool) :
    (addressByte addr isRead).toNat = 2 * addr.toNat + isRead.toNat := by
  revert addr isRead
  decide

theorem Inv_takeResponse (h : s.Inv) (hi : s.fsm = .idle) : (takeResponse s).Inv :=
  Inv_move h rfl rfl rfl h.rxWf h.bitcntRange h.pulsecntRange rfl rfl h.stopStatusRange (fun hb => absurd hi hb)
    h.position

theorem Inv_writeTx (i v : Byte) (h : s.Inv) : (writeTx i v s).Inv :=
  ⟨h.legal, h.clockDriven, Memory.write_wf _ _ _ i.isLt h.txWf, h.rxWf, h.bitcntRange, h.pulsecntRange, h.phaseRange,
    h.position, h.stopStatusRange, h.oneAtATime, h.errCode, h.rspForm⟩

section
variable (h : s.Inv) (hr : s.rsp = none)
include h hr

theorem Inv_accept_single {i : Instr} (hi : i.isSingle = true) : (accept i .single s).Inv :=
  Inv_move h rfl rfl rfl h.rxWf h.bitcntRange h.pulsecntRange hr rfl h.stopStatusRange
    (fun _ => singleSeq_pos i hi rfl rfl) ⟨i, rfl, hi⟩

theorem Inv_accept_byte {i : Instr} (v : Byte) (hi : i.isSingle = true) : (loadByte v (accept i .single s)).Inv :=
  Inv_move h rfl rfl rfl h.rxWf (show (8#4).toNat ≤ 8 by decide) h.pulsecntRange hr rfl h.stopStatusRange
    (fun _ => singleSeq_pos i hi rfl rfl) ⟨i, rfl, hi⟩

theorem Inv_accept_xferW (addr : BitVec 7) (n : Byte) :
    (latchTransfer addr false n (accept (.xferW addr n) .start s)).Inv :=
  Inv_move h rfl rfl rfl h.rxWf h.bitcntRange h.pulsecntRange hr rfl h.stopStatusRange (fun _ => Nat.succ_pos _)
    ⟨⟨rfl, rfl, addressByte_toNat addr false⟩, rfl⟩

theorem Inv_accept_xferR (addr : BitVec 7) {n : Byte} (hn : n ≠ 0) :
    (latchTransfer addr true n (accept (.xferR addr n) .start s)).Inv :=
  Inv_move h rfl rfl rfl h.rxWf h.bitcntRange h.pulsecntRange hr rfl h.stopStatusRange (fun _ => Nat.succ_pos _)
    ⟨⟨rfl, rfl, addressByte_toNat addr true, hn⟩, rfl⟩

theorem Inv_accept_recover (force : Bool) : (latchRecovery force (accept (.recover force) .recSample s)).Inv :=
  Inv_move h rfl rfl rfl h.rxWf h.bitcntRange (Nat.zero_le _) hr rfl h.stopStatusRange (fun _ => Nat.succ_pos _)
    ⟨rfl, rfl⟩

/-- Every command begins with the invariant. -/
theorem Inv_entry (hi : s.fsm = .idle) (i : Instr) : (entry s i).Inv := by
  cases i with
  | start | stop | wbit | rbit => exact Inv_accept_single h hr rfl
  | wbyte | rbyte => exact Inv_accept_byte h hr _ rfl
  | xferW addr n => exact Inv_accept_xferW h hr addr n
  | xferR addr n =>
    simp only [entry]
    split
    · exact Inv_illegalCmd h hi
    · exact Inv_accept_xferR h hr addr ‹_›
  | recover force => exact Inv_accept_recover h hr force
  | auxset bit value =>
    simp only [entry]
    split
    · exact Inv_illegalCmd h hi
    · exact Inv_accept_single h hr rfl
  | txwr idx byte => exact Inv_respond _ _ _ (Inv_writeTx idx byte h) (.inl rfl)
  | rxrd idx => exact Inv_respond _ _ _ h (.inl rfl)

end

/-! ### A run, and the step -/

theorem Inv_advance (k : Nat) (h : s.Inv) : (advance k s).Inv :=
  advance_induction (fun _ hu hb => Inv_primStep hu hb) k h

/-- Settles O53: reset, a run (`Inv_advance`), the response port and an accepted command (`Inv_entry`) each keep the
invariant. -/
theorem stepKeepsTheInvariant : Obligations.StepKeepsTheInvariant := by
  unfold Obligations.StepKeepsTheInvariant
  intro s t h hst
  have hpins := Inv_takePins h
  by_cases hp : s.world.hostPins.rst = true
  · rw [step_reset h.legal hp] at hst
    cases hst
    exact Inv_applyReset h.legal
  have hp : s.world.hostPins.rst = false := by simpa using hp
  by_cases hi : s.fsm = .idle
  swap
  · obtain ⟨l, hn⟩ := Inv_nextLine h hi
    rw [step_runs h.legal hp hi (by simp [hn])] at hst
    cases hst
    exact Inv_advance _ hpins
  cases hr : s.rsp with
  | some r =>
    rw [step_waiting h.legal hp hi hr] at hst
    cases hst
    split
    · exact Inv_takeResponse hpins hi
    · exact hpins
  | none =>
    have hs : s.Ready := ⟨h.legal, hi, hr⟩
    cases ho : s.world.hostPins.cmd with
    | none =>
      rw [step_quiet hs hp ho] at hst
      cases hst
      exact hpins
    | some w =>
      cases hd : decode s.cfg w with
      | error e =>
        rw [step_illegal hs hp ho hd] at hst
        cases hst
        exact Inv_illegalCmd hpins hi
      | ok i =>
        rw [step_accept hs hp ho hd, exec_eq_advance_entry i (by simpa using hi)] at hst
        cases hst
        exact Inv_advance _ (Inv_entry hpins hr hi i)

end Sys2Proof.Machine
end

section
/-! PROOFS. What one primitive can do, said once: how a sub-sequence ends (R121 to R124, R130, R131, R146, R161), and how
a command is entered. Every later claim about a run is a case analysis of these. -/

namespace Sys2Proof.Machine

variable {s t : State} {i : Instr} {l : Line}

/-! ### The end of a sub-sequence -/

/-- The ends of a sub-sequence, one constructor per row of the column "leaves to" of R146 and R161, and per ending of
a command in state SINGLE. -/
inductive SeqEnd (s : State) : State → Prop
  | started (hf : s.fsm = .start) : SeqEnd s (enter .address (loadByte s.addrb s))
  | addressBit (hf : s.fsm = .address) (hz : s.bitcnt - 1 ≠ 0) : SeqEnd s (enter .address (shiftOut s))
  | addressByte (hf : s.fsm = .address) (hz : s.bitcnt - 1 = 0) : SeqEnd s (enter .ackAddr (shiftOut s))
  | addressOnly (hf : s.fsm = .ackAddr) (st : Status) : SeqEnd s (enterStop st (detectAck s))
  | addressAcked (hf : s.fsm = .ackAddr) (hn : (!s.rw && s.len == 0) = false) : SeqEnd s (enterData (detectAck s))
  | bitSent (hf : s.fsm = .dataPhase) (hz : s.bitcnt - 1 ≠ 0) : SeqEnd s (enter .dataPhase (shiftOut s))
  | bitReceived (hf : s.fsm = .dataPhase) (hz : s.bitcnt - 1 ≠ 0) : SeqEnd s (enter .dataPhase (shiftIn s))
  | byteSent (hf : s.fsm = .dataPhase) (hz : s.bitcnt - 1 = 0) : SeqEnd s (enter .ackData (shiftOut s))
  | byteReceived (hf : s.fsm = .dataPhase) (hw : s.rw = true) (hz : s.bitcnt - 1 = 0) :
      SeqEnd s (enter .ackData (writeRx s.bytecnt (shiftInBit s.shreg s.sbit) (shiftIn s)))
  | byteAnswered (hf : s.fsm = .ackData) : SeqEnd s (countByte s)
  | byteAcked (hf : s.fsm = .ackData) : SeqEnd s (countByte (detectAck s))
  | byteNacked (hf : s.fsm = .ackData) : SeqEnd s (enterStop .dataNacked (detectAck s))
  | stopped (hf : s.fsm = .stop) (c : Byte) : SeqEnd s (respond s.stopStatus c 0 s)
  | lineFree (hf : s.fsm = .recSample) : SeqEnd s (respond .ok 0 0 s)
  | lineForced (hf : s.fsm = .recSample) : SeqEnd s (enterStop .ok s)
  | lineHeld (hf : s.fsm = .recSample) : SeqEnd s (enter .recPulse s)
  | pulseLast (hf : s.fsm = .recPulse) (st : Status) : SeqEnd s (enterStop st s)
  | pulseHeld (hf : s.fsm = .recPulse) (hp : s.pulsecnt.toNat < Config.recoverMaxPulses) : SeqEnd s (enter .recPulse s)
  | single (hf : s.fsm = .single) (v : Byte) : SeqEnd s (respond .ok 0 v s)
  | wbyteLast (hf : s.fsm = .single) {b : Byte} (hc : s.cur = some (.wbyte b)) (v : Byte) :
      SeqEnd s (respond .ok 0 v (detectAck s))
  | wbyteBit (hf : s.fsm = .single) {b : Byte} (hc : s.cur = some (.wbyte b)) (hz : s.bitcnt ≠ 0) :
      SeqEnd s (enter .single (shiftOut s))
  | rbyteBit (hf : s.fsm = .single) {a : Bool} (hc : s.cur = some (.rbyte a)) (hz : s.bitcnt ≠ 0) :
      SeqEnd s (enter .single (shiftIn s))

theorem finishAckAddr_seqEnd (hf : s.fsm = .ackAddr) : SeqEnd s (finishAckAddr s) := by
  simp only [finishAckAddr]
  split
  · exact .addressOnly hf _
  · split
    · exact .addressOnly hf _
    · rename_i hn
      exact .addressAcked hf (by simpa using hn)

theorem finishDataBit_seqEnd (hf : s.fsm = .dataPhase) : SeqEnd s (finishDataBit s) := by
  simp only [finishDataBit]
  split
  · split
    · exact .byteReceived hf ‹_› ‹_›
    · exact .bitReceived hf ‹_›
  · split
    · exact .byteSent hf ‹_›
    · exact .bitSent hf ‹_›

theorem finishAckData_seqEnd (hf : s.fsm = .ackData) : SeqEnd s (finishAckData s) := by
  simp only [finishAckData]
  split
  · exact .byteAnswered hf
  · split
    · exact .byteAcked hf
    · exact .byteNacked hf

theorem finishRecSample_seqEnd (hf : s.fsm = .recSample) : SeqEnd s (finishRecSample s) := by
  simp only [finishRecSample]
  split
  · split
    · exact .lineForced hf
    · exact .lineFree hf
  · exact .lineHeld hf

theorem finishRecPulse_seqEnd (hf : s.fsm = .recPulse) : SeqEnd s (finishRecPulse s) := by
  simp only [finishRecPulse]
  split
  · exact .pulseLast hf _
  · split
    · exact .pulseHeld hf ‹_›
    · exact .pulseLast hf _

/-- A command without a sub-sequence in state SINGLE has nothing to end. -/
theorem finishSingle_seqEnd (hf : s.fsm = .single) (hc : s.cur = some i) (hne : singleSeq s i ≠ []) :
    SeqEnd s (finishSingle s i) := by
  cases i with
  | start | stop | wbit | rbit | auxset => exact .single hf _
  | wbyte =>
    simp only [finishSingle]
    split
    · exact .wbyteLast hf hc _
    · exact .wbyteBit hf hc ‹_›
  | rbyte =>
    simp only [finishSingle]
    split
    · exact .single hf _
    · exact .rbyteBit hf hc ‹_›
  | xferW | xferR | recover | txwr | rxrd => exact absurd rfl hne

theorem finishSeq_seqEnd (hne : currentSeq s ≠ []) : SeqEnd s (finishSeq s) := by
  cases hf : s.fsm with
  | idle => simp [currentSeq, hf] at hne
  | start => simpa only [finishSeq, hf] using .started hf
  | address =>
    simp only [finishSeq, hf]
    split
    · exact .addressByte hf ‹_›
    · exact .addressBit hf ‹_›
  | ackAddr => simpa only [finishSeq, hf] using finishAckAddr_seqEnd hf
  | dataPhase => simpa only [finishSeq, hf] using finishDataBit_seqEnd hf
  | ackData => simpa only [finishSeq, hf] using finishAckData_seqEnd hf
  | stop => simpa only [finishSeq, hf] using .stopped hf _
  | recSample => simpa only [finishSeq, hf] using finishRecSample_seqEnd hf
  | recPulse => simpa only [finishSeq, hf] using finishRecPulse_seqEnd hf
  | single =>
    cases hc : s.cur with
    | none => simp [currentSeq, hf, hc] at hne
    | some i =>
      simp only [finishSeq, hf, hc]
      exact finishSingle_seqEnd hf hc (by simpa [currentSeq, hf, hc] using hne)

/-- A counted payload byte ends the payload or begins the next byte (R146). -/
theorem countByte_cases (s : State) :
    (s.bytecnt + 1 = s.len ∧ countByte s = enterStop .ok (addByte s)) ∨
    (s.bytecnt + 1 ≠ s.len ∧ countByte s = enterData (addByte s)) := by
  by_cases h : s.bytecnt + 1 = s.len
  · exact .inl ⟨h, if_pos h⟩
  · exact .inr ⟨h, if_neg h⟩

/-! ### One primitive -/

/-- The engine once a primitive is performed: the answer is taken, the registers of the line step are written, a pulse is
counted. Only the sequencer has not moved on yet. -/
def performed (l : Line) (s : State) : State := countPulse (perform l (takeAck s))

/-- Beside the line step, a pulse may be counted. -/
theorem performed_eq (l : Line) (s : State) : ∃ p, performed l s = { perform l (takeAck s) with pulsecnt := p } := by
  unfold performed countPulse
  split
  · exact ⟨_, rfl⟩
  · exact ⟨_, rfl⟩

section
variable (l s)

@[simp] theorem performed_cfg : (performed l s).cfg = s.cfg := by
  obtain ⟨p, hp⟩ := performed_eq l s; simp [hp]
@[simp] theorem performed_bitcnt : (performed l s).bitcnt = s.bitcnt := by
  obtain ⟨p, hp⟩ := performed_eq l s; simp [hp]
@[simp] theorem performed_bytecnt : (performed l s).bytecnt = s.bytecnt := by
  obtain ⟨p, hp⟩ := performed_eq l s; simp [hp]
@[simp] theorem performed_addrb : (performed l s).addrb = s.addrb := by
  obtain ⟨p, hp⟩ := performed_eq l s; simp [hp]
@[simp] theorem performed_rw : (performed l s).rw = s.rw := by
  obtain ⟨p, hp⟩ := performed_eq l s; simp [hp]
@[simp] theorem performed_len : (performed l s).len = s.len := by
  obtain ⟨p, hp⟩ := performed_eq l s; simp [hp]
@[simp] theorem performed_ackf : (performed l s).ackf = s.ackf := by
  obtain ⟨p, hp⟩ := performed_eq l s; simp [hp]
@[simp] theorem performed_err : (performed l s).err = s.err := by
  obtain ⟨p, hp⟩ := performed_eq l s; simp [hp]
@[simp] theorem performed_fsm : (performed l s).fsm = s.fsm := by
  obtain ⟨p, hp⟩ := performed_eq l s; simp [hp]
@[simp] theorem performed_phase : (performed l s).phase = s.phase := by
  obtain ⟨p, hp⟩ := performed_eq l s; simp [hp]
@[simp] theorem performed_cur : (performed l s).cur = s.cur := by
  obtain ⟨p, hp⟩ := performed_eq l s; simp [hp]
@[simp] theorem performed_rxbuf : (performed l s).rxbuf = s.rxbuf := by
  obtain ⟨p, hp⟩ := performed_eq l s; simp [hp]
@[simp] theorem performed_rsp : (performed l s).rsp = s.rsp := by
  obtain ⟨p, hp⟩ := performed_eq l s; simp [hp]
@[simp] theorem performed_epoch : (performed l s).epoch = s.epoch := by
  obtain ⟨p, hp⟩ := performed_eq l s; simp [hp]

@[simp] theorem currentSeq_performed : currentSeq (performed l s) = currentSeq s := by
  obtain ⟨p, hp⟩ := performed_eq l s
  rw [hp, ← currentSeq_takeAck s, ← currentSeq_perform l (takeAck s)]
  exact currentSeq_congr rfl rfl rfl rfl rfl rfl rfl

end

/-- A completed primitive is followed by the next one of its sub-sequence. -/
theorem primStep_next (hl : nextLine s = some l) (ha : s.world.ack = .done)
    (hlt : s.phase + 1 < (currentSeq s).length) : primStep s = setPhase (s.phase + 1) (performed l s) := by
  rw [primStep_done hl ha, advancePhase]
  show (if (performed l s).phase + 1 < (currentSeq (performed l s)).length then
    setPhase ((performed l s).phase + 1) (performed l s) else _) = _
  simp [hlt]

/-- A completed primitive that is the last of its sub-sequence ends it. -/
theorem primStep_last (hl : nextLine s = some l) (ha : s.world.ack = .done)
    (hge : ¬ s.phase + 1 < (currentSeq s).length) : primStep s = finishSeq (performed l s) := by
  rw [primStep_done hl ha, advancePhase]
  show (if (performed l s).phase + 1 < (currentSeq (performed l s)).length then _ else
    finishSeq (performed l s)) = _
  simp [hge]

theorem currentSeq_ne_nil (hl : nextLine s = some l) : currentSeq s ≠ [] :=
  fun h => by simp [nextLine, h] at hl

/-- Everything one primitive can do to the engine: nothing when its position names none; and else, by the answer of the
environment, the next phase or the end of the sub-sequence, nothing, or BUS_TIMEOUT. -/
inductive PrimOutcome (s : State) : State → Prop
  | lost (hl : nextLine s = none) : PrimOutcome s s
  | next {l : Line} (hl : nextLine s = some l) (ha : s.world.ack = .done)
      (hlt : s.phase + 1 < (currentSeq s).length) : PrimOutcome s (setPhase (s.phase + 1) (performed l s))
  | last {l : Line} {t : State} (hl : nextLine s = some l) (ha : s.world.ack = .done)
      (hge : (currentSeq s).length ≤ s.phase + 1) (he : SeqEnd (performed l s) t) : PrimOutcome s t
  | wait (ha : s.world.ack = .wait) : PrimOutcome s (takeAck s)
  | fault (ha : s.world.ack = .fault) (w : World) :
      PrimOutcome s (respond .busTimeout (countOf s) 0 { s with trace := s.trace ++ [.fault], world := w })

theorem primStep_outcome (s : State) : PrimOutcome s (primStep s) := by
  cases hl : nextLine s with
  | none =>
    have h : primStep s = s := by simp [primStep, hl]
    rw [h]
    exact .lost hl
  | some l =>
    cases ha : s.world.ack with
    | done =>
      by_cases hlt : s.phase + 1 < (currentSeq s).length
      · rw [primStep_next hl ha hlt]
        exact .next hl ha hlt
      · rw [primStep_last hl ha hlt]
        exact .last hl ha (by omega) (finishSeq_seqEnd (by simpa using currentSeq_ne_nil hl))
    | wait =>
      rw [primStep_wait hl ha]
      exact .wait ha
    | fault =>
      obtain ⟨w, hw, -⟩ := performFault_eq l (takeAck s)
      rw [primStep_fault hl ha, busTimeout, hw]
      exact .fault ha w

/-! ### A command -/

/-- A command is answered ILLEGAL_CMD at once, or is one that some word encodes and runs from its entry state. -/
theorem exec_cases (h : exec i s = .next t) :
    t = illegalCmd s ∨ (i.wf s.cfg = true ∧ t = advance Config.maxPrimitives (entry s i)) := by
  cases i with
  | xferR addr n =>
    simp only [exec, execXferR] at h
    split at h
    · cases h
      exact .inl rfl
    · rename_i hn
      cases h
      exact .inr ⟨by simpa [Instr.wf] using hn, by rw [entry, if_neg hn]⟩
  | auxset bit value =>
    simp only [exec, execAuxset] at h
    split at h
    · cases h
      exact .inl rfl
    · rename_i hn
      cases h
      exact .inr ⟨by simpa [Instr.wf] using hn, by rw [entry, if_neg hn]⟩
  | txwr | rxrd =>
    cases h
    exact .inr ⟨rfl, (advance_idle rfl _).symm⟩
  | start | stop | wbit | rbit | wbyte | rbyte | xferW | recover =>
    cases h
    exact .inr ⟨rfl, rfl⟩

/-- What holds after ILLEGAL_CMD, holds of the entry state, and is kept by every primitive, holds after the command
(once for all commands). -/
theorem exec_induction {P : State → Prop} (hill : P (illegalCmd s)) (hentry : i.wf s.cfg = true → P (entry s i))
    (hstep : i.wf s.cfg = true → ∀ u, P u → u.fsm ≠ .idle → P (primStep u)) (h : exec i s = .next t) : P t := by
  rcases exec_cases h with rfl | ⟨hw, rfl⟩
  · exact hill
  · exact advance_induction (hstep hw) _ (hentry hw)

/-- Accepting a command leaves the inputs, the directions, ACKF and RXBUF as they were. -/
theorem entry_keeps (s : State) (i : Instr) :
    (entry s i).cfg = s.cfg ∧ (entry s i).world = s.world ∧ (entry s i).portDir = s.portDir ∧
    (entry s i).ackf = s.ackf ∧ (entry s i).rxbuf = s.rxbuf ∧ (entry s i).epoch = s.epoch := by
  cases i with
  | xferR addr n => simp only [entry]; split <;> exact ⟨rfl, rfl, rfl, rfl, rfl, rfl⟩
  | auxset bit value => simp only [entry]; split <;> exact ⟨rfl, rfl, rfl, rfl, rfl, rfl⟩
  | start | stop | wbit | rbit | wbyte | rbyte | xferW | recover | txwr | rxrd => exact ⟨rfl, rfl, rfl, rfl, rfl, rfl⟩

end Sys2Proof.Machine
end

section
/-! PROOFS. The command port and the response: an accepted command is answered or in progress (R36), and ERR, which takes
the status of the response, is read by nothing (R35). -/

namespace Sys2Proof.Machine

variable {s t : State} {i : Instr} {e : Byte}

/-! ### What a counted byte leaves alone -/

section
variable (s)

theorem countByte_busy : (countByte s).fsm ≠ .idle := by
  rcases countByte_cases s with ⟨-, h⟩ | ⟨-, h⟩ <;> rw [h] <;> nofun

@[simp] theorem countByte_cur : (countByte s).cur = s.cur := by
  rcases countByte_cases s with ⟨-, h⟩ | ⟨-, h⟩ <;> rw [h] <;> rfl

@[simp] theorem countByte_rsp : (countByte s).rsp = s.rsp := by
  rcases countByte_cases s with ⟨-, h⟩ | ⟨-, h⟩ <;> rw [h] <;> rfl

@[simp] theorem countByte_err : (countByte s).err = s.err := by
  rcases countByte_cases s with ⟨-, h⟩ | ⟨-, h⟩ <;> rw [h] <;> rfl

@[simp] theorem countByte_ackf : (countByte s).ackf = s.ackf := by
  rcases countByte_cases s with ⟨-, h⟩ | ⟨-, h⟩ <;> rw [h] <;> rfl

@[simp] theorem countByte_rxbuf : (countByte s).rxbuf = s.rxbuf := by
  rcases countByte_cases s with ⟨-, h⟩ | ⟨-, h⟩ <;> rw [h] <;> rfl

end

/-! ### Answered or in progress -/

/-- A command that found ERR = e is in progress, with no response and ERR as it was, or is answered, with its status in
ERR. -/
def State.Reported (e : Byte) (s : State) : Prop :=
  (s.fsm ≠ .idle ∧ s.rsp = none ∧ s.err = e) ∨ (s.fsm = .idle ∧ ∃ r, s.rsp = some r ∧ s.err = rspST r)

theorem Reported_respond (st : Status) (c v : Byte) : (respond st c v s).Reported e :=
  .inr ⟨rfl, _, rfl, (rspST_response st c v).symm⟩

theorem Reported_illegalCmd (hi : s.fsm = .idle) : (illegalCmd s).Reported e :=
  .inr ⟨hi, _, rfl, (rspST_response .illegalCmd 0 0).symm⟩

theorem SeqEnd.reported (h : SeqEnd s t) (hr : s.rsp = none) (he : s.err = e) : t.Reported e := by
  cases h with
  | stopped | lineFree | single | wbyteLast => exact Reported_respond ..
  | byteAnswered | byteAcked => exact .inl ⟨countByte_busy _, by simpa using hr, by simpa using he⟩
  | started | addressBit | addressByte | addressOnly | addressAcked | bitSent | bitReceived | byteSent | byteReceived
  | byteNacked | lineForced | lineHeld | pulseLast | pulseHeld | wbyteBit | rbyteBit => exact .inl ⟨nofun, hr, he⟩

theorem PrimOutcome.reported (ho : PrimOutcome s t) (h : s.Reported e) (hb : s.fsm ≠ .idle) : t.Reported e := by
  obtain ⟨-, hr, he⟩ | ⟨hi, -⟩ := h
  · cases ho with
    | lost | wait => exact .inl ⟨hb, hr, he⟩
    | next => exact .inl ⟨by simpa using hb, by simpa using hr, by simpa using he⟩
    | last _ _ _ hend => exact hend.reported (by simpa using hr) (by simpa using he)
    | fault => exact Reported_respond ..
  · exact absurd hi hb

theorem Reported_entry (hi : s.fsm = .idle) (hr : s.rsp = none) (i : Instr) : (entry s i).Reported s.err := by
  cases i with
  | xferR addr n =>
    simp only [entry]
    split
    · exact Reported_illegalCmd hi
    · exact .inl ⟨nofun, hr, rfl⟩
  | auxset bit value =>
    simp only [entry]
    split
    · exact Reported_illegalCmd hi
    · exact .inl ⟨nofun, hr, rfl⟩
  | txwr | rxrd => exact Reported_respond ..
  | start | stop | wbit | rbit | wbyte | rbyte | xferW | recover => exact .inl ⟨nofun, hr, rfl⟩

theorem Reported_exec (hs : s.Ready) (h : exec i s = .next t) : t.Reported s.err :=
  exec_induction (Reported_illegalCmd hs.idle) (fun _ => Reported_entry hs.idle hs.noResponse i)
    (fun _ u hu hb => (primStep_outcome u).reported hu hb) h

theorem State.Reported.busy (h : s.Reported e) : s.fsm ≠ .idle ∨ s.rsp ≠ none := by
  obtain ⟨hb, -⟩ | ⟨-, r, hr, -⟩ := h
  · exact .inl hb
  · exact .inr (by simp [hr])

theorem State.Reported.err_of_rsp {r : Word} (h : s.Reported e) (hr : s.rsp = some r) : s.err = rspST r := by
  obtain ⟨-, hn, -⟩ | ⟨-, r', hr', he⟩ := h
  · simp [hr] at hn
  · obtain rfl : r = r' := by simpa [hr] using hr'
    exact he

theorem State.Reported.err_of_no_rsp (h : s.Reported e) (hr : s.rsp = none) : s.err = e := by
  obtain ⟨-, -, he⟩ | ⟨-, r, hr', -⟩ := h
  · exact he
  · simp [hr] at hr'

/-! ### The command port -/

/-- The engine with other host pins to come. -/
def withPins (pins : List HostPins) (s : State) : State := { s with world := { s.world with pins := pins } }

/-- Settles O9: `step` reads the command port in none of the busy cases, and a ready engine's step is an ILLEGAL_CMD
answer or a run, which is `Reported`. -/
theorem commandsAreAcceptedOnlyWhileNotBusy : Obligations.CommandsAreAcceptedOnlyWhileNotBusy := by
  unfold Obligations.CommandsAreAcceptedOnlyWhileNotBusy
  intro s w ready rest hl
  refine ⟨fun hbusy => ?_, fun hi hr => ?_⟩
  · by_cases hi : s.fsm = .idle
    · obtain ⟨r, hr⟩ := Option.ne_none_iff_exists'.mp (hbusy.resolve_left (not_not_intro hi))
      have hstep (cmd) := step_waiting (s := withPins (⟨false, cmd, ready⟩ :: rest) s) hl rfl hi hr
      exact (hstep (some w)).trans (hstep none).symm
    · have hstep (cmd) := step_busy (s := withPins (⟨false, cmd, ready⟩ :: rest) s) hl rfl hi
      exact (hstep (some w)).trans (hstep none).symm
  · cases hd : decode s.cfg w with
    | error e =>
      have hstep := step_illegal (s := withPins (⟨false, some w, ready⟩ :: rest) s) ⟨hl, hi, hr⟩ rfl rfl hd
      exact ⟨_, hstep, .inr nofun⟩
    | ok i =>
      have hstep := step_accept (s := withPins (⟨false, some w, ready⟩ :: rest) s) ⟨hl, hi, hr⟩ rfl rfl hd
      have hexec := exec_eq_advance_entry (s := withPins rest s) i hi
      exact ⟨_, hstep.trans hexec, (Reported_exec (s := withPins rest s) ⟨hl, hi, hr⟩ hexec).busy⟩

/-! ### ERR is not read -/

/-- Two conditionals on one condition are related as their branches are. -/
theorem ite_rel {R : State → State → Prop} {c : Prop} [Decidable c] {x x' y y' : State} (hx : R x x') (hy : R y y') :
    R (if c then x else y) (if c then x' else y') := by
  split
  · exact hx
  · exact hy

/-- The engine with another ERR. -/
def withErr (e : Byte) (s : State) : State := { s with err := e }

@[simp] theorem withErr_fsm : (withErr e s).fsm = s.fsm := rfl
@[simp] theorem withErr_cur : (withErr e s).cur = s.cur := rfl
@[simp] theorem withErr_world : (withErr e s).world = s.world := rfl

/-- Two engines that differ at most in ERR. -/
def SameButErr (s t : State) : Prop := withErr 0 s = withErr 0 t

theorem SameButErr.eq_withErr (h : SameButErr s t) : s = withErr s.err t := by
  have h' : withErr s.err (withErr 0 s) = withErr s.err (withErr 0 t) := congrArg _ h
  exact h'

theorem finishSingle_sameButErr (e : Byte) (s : State) (i : Instr) :
    SameButErr (finishSingle (withErr e s) i) (finishSingle s i) := by
  cases i with
  | wbyte | rbyte => exact ite_rel (R := SameButErr) rfl rfl
  | start | stop | wbit | rbit | auxset | xferW | xferR | recover | txwr | rxrd => exact rfl

/-- No transition reads ERR. -/
theorem finishSeq_sameButErr (e : Byte) (s : State) : SameButErr (finishSeq (withErr e s)) (finishSeq s) := by
  cases hf : s.fsm with
  | idle | start | stop => simp only [finishSeq, withErr_fsm, hf]; rfl
  | address =>
    simp only [finishSeq, withErr_fsm, hf]
    exact ite_rel (R := SameButErr) rfl rfl
  | ackAddr =>
    simp only [finishSeq, withErr_fsm, hf]
    exact ite_rel (R := SameButErr) rfl (ite_rel (R := SameButErr) rfl rfl)
  | dataPhase =>
    simp only [finishSeq, withErr_fsm, hf]
    exact ite_rel (R := SameButErr) (ite_rel (R := SameButErr) rfl rfl) (ite_rel (R := SameButErr) rfl rfl)
  | ackData =>
    have hcount : ∀ u, SameButErr (countByte (withErr e u)) (countByte u) :=
      fun _ => ite_rel (R := SameButErr) rfl rfl
    simp only [finishSeq, withErr_fsm, hf]
    exact ite_rel (R := SameButErr) (hcount s) (ite_rel (R := SameButErr) (hcount (detectAck s)) rfl)
  | recSample =>
    simp only [finishSeq, withErr_fsm, hf]
    exact ite_rel (R := SameButErr) (ite_rel (R := SameButErr) rfl rfl) rfl
  | recPulse =>
    simp only [finishSeq, withErr_fsm, hf]
    exact ite_rel (R := SameButErr) rfl (ite_rel (R := SameButErr) rfl rfl)
  | single =>
    cases hc : s.cur with
    | none =>
      simp only [finishSeq, withErr_fsm, withErr_cur, hf, hc]
      rfl
    | some i =>
      simp only [finishSeq, withErr_fsm, withErr_cur, hf, hc]
      exact finishSingle_sameButErr e s i

theorem performed_withErr (e : Byte) (l : Line) (s : State) :
    performed l (withErr e s) = withErr e (performed l s) := by
  have hp : perform l (takeAck (withErr e s)) = withErr e (perform l (takeAck s)) := by cases l <;> rfl
  rw [performed, hp]
  exact ite_rel (R := (· = withErr e ·)) rfl rfl

theorem advancePhase_sameButErr (e : Byte) (s : State) :
    SameButErr (advancePhase (withErr e s)) (advancePhase s) :=
  ite_rel (R := SameButErr) rfl (finishSeq_sameButErr e s)

/-- No primitive reads ERR, however it is answered. -/
theorem primStep_sameButErr (h : SameButErr s t) : SameButErr (primStep s) (primStep t) := by
  rw [h.eq_withErr]
  generalize s.err = e
  have hl' : nextLine (withErr e t) = nextLine t := rfl
  cases hl : nextLine t with
  | none =>
    simp only [primStep, hl', hl]
    rfl
  | some l =>
    cases ha : t.world.ack with
    | done =>
      rw [primStep_done hl ha, primStep_done (hl'.trans hl) ha]
      show SameButErr (advancePhase (performed l (withErr e t))) (advancePhase (performed l t))
      rw [performed_withErr]
      exact advancePhase_sameButErr e _
    | wait =>
      rw [primStep_wait hl ha, primStep_wait (hl'.trans hl) ha]
      rfl
    | fault =>
      rw [primStep_fault hl ha, primStep_fault (hl'.trans hl) ha]
      cases l <;> rfl

theorem advance_sameButErr (k : Nat) (h : SameButErr s t) : SameButErr (advance k s) (advance k t) := by
  induction k generalizing s t with
  | zero => exact h
  | succ k ih =>
    have hstep := primStep_sameButErr h
    rw [h.eq_withErr] at hstep ⊢
    exact ite_rel (R := SameButErr) rfl (ite_rel (R := SameButErr) hstep (ih hstep))

theorem entry_sameButErr (e : Byte) (s : State) (i : Instr) : SameButErr (entry (withErr e s) i) (entry s i) := by
  cases i with
  | xferR | auxset => exact ite_rel (R := SameButErr) rfl rfl
  | start | stop | wbit | rbit | wbyte | rbyte | xferW | recover | txwr | rxrd => exact rfl

/-- Settles O48: the runs with and without another ERR stay `SameButErr`; a response writes ERR in both with its status,
and while none is given ERR is as it was found. -/
theorem errGatesNothing : Obligations.ErrGatesNothing := by
  unfold Obligations.ErrGatesNothing
  refine ⟨fun _ => rfl, fun s t i e hs ht => ?_⟩
  obtain ⟨t', ht', hsame⟩ : ∃ t', exec i (withErr e s) = .next t' ∧ SameButErr t' t := by
    rw [exec_eq_advance_entry i hs.idle] at ht
    cases ht
    exact ⟨_, exec_eq_advance_entry i hs.idle, advance_sameButErr _ (entry_sameButErr e s i)⟩
  have heq := hsame.eq_withErr
  have hrsp : t'.rsp = t.rsp := by rw [heq]; rfl
  have hrep := Reported_exec hs ht
  have hrep' : t'.Reported e := Reported_exec (s := withErr e s) ⟨hs.legal, hs.idle, hs.noResponse⟩ ht'
  refine ⟨fun r hr => ?_, fun hr => ?_⟩
  · have herr := hrep.err_of_rsp hr
    refine ⟨herr, ht'.trans ?_⟩
    rw [heq, hrep'.err_of_rsp (hrsp.trans hr), ← herr]
    rfl
  · rw [hrep'.err_of_no_rsp (hrsp.trans hr)] at heq
    exact ht'.trans (congrArg _ heq)

end Sys2Proof.Machine
end

section
/-! PROOFS. Who writes what: the three lines (R26), the direction bits (R25), the two buffers (R39) and ACKF (R33). -/

namespace Sys2Proof.Machine

variable {s t : State} {i : Instr} {l : Line}

/-! ### One line at a time -/

/-- A line step of a bus command writes one of SCL, SDA, SDA_OE, or none. -/
theorem perform_moves_one_line (hl : s.cfg.legal = true) (hout : ∀ i b, l ≠ .auxOut i b) (hdir : ∀ i, l ≠ .auxDir i) :
    let t := perform l s
    (t.scl = s.scl ∧ t.sda = s.sda) ∨ (t.scl = s.scl ∧ t.sdaOe = s.sdaOe) ∨ (t.sda = s.sda ∧ t.sdaOe = s.sdaOe) := by
  have hne : s.cfg.sclBit ≠ s.cfg.sdaBit := by simpa [Config.legal] using hl
  cases l with
  | scl b => exact .inr (.inr ⟨by simp [State.sda, hne.symm], by simp [State.sdaOe]⟩)
  | sda b => exact .inr (.inl ⟨by simp [State.scl, hne], by simp [State.sdaOe]⟩)
  | oe b => exact .inl ⟨by simp [State.scl], by simp [State.sda]⟩
  | sample => exact .inl ⟨rfl, rfl⟩
  | auxOut i b => exact absurd rfl (hout i b)
  | auxDir i => exact absurd rfl (hdir i)

/-- The three lines are read off the port, which the sequencer's move leaves alone. -/
theorem SameOutside.lines (h : SameOutside s t) : t.scl = s.scl ∧ t.sda = s.sda ∧ t.sdaOe = s.sdaOe := by
  simp only [State.scl, State.sda, State.sdaOe, h.cfg, h.portOut, h.portDir, and_self]

/-- Settles O14: the line step moves at most one line, the sequencer's move after it none. -/
theorem onePrimitiveMovesAtMostOneLine : Obligations.OnePrimitiveMovesAtMostOneLine := by
  unfold Obligations.OnePrimitiveMovesAtMostOneLine
  intro s l hl hn ha hout hdir
  rw [primStep_done hn ha]
  obtain ⟨h1, h2, h3⟩ := (advancePhase_same (perform l (takeAck s))).lines
  simp only [h1, h2, h3]
  exact perform_moves_one_line (s := takeAck s) hl hout hdir

/-! ### The command in progress and its place -/

/-- In the states of a transfer its latches agree with the command in progress, and BYTECNT counts the whole payload
bytes before this place (R29, R31, R146). -/
def State.AtByte (s : State) : Prop :=
  match s.fsm with
  | .start => s.transferLatched ∧ s.bytecnt = 0
  | .address => s.transferLatched ∧ s.bytecnt = 0
  | .ackAddr => s.transferLatched ∧ s.bytecnt = 0
  | .dataPhase => s.transferLatched ∧ s.bytecnt < s.len
  | .ackData => s.transferLatched ∧ s.bytecnt < s.len
  | .idle => True
  | .stop => True
  | .recSample => True
  | .recPulse => True
  | .single => True

/-- The engine is idle again or at some place of command i. -/
structure State.Running (i : Instr) (s : State) : Prop where
  cur : s.fsm ≠ .idle → s.cur = some i
  atByte : s.AtByte

theorem transferLatched_congr (h : s.transferLatched) (hc : t.cur = s.cur) (hr : t.rw = s.rw) (hn : t.len = s.len)
    (ha : t.addrb = s.addrb) : t.transferLatched := by
  simpa only [State.transferLatched, hc, hr, hn, ha] using h

theorem Running_congr (h : s.Running i) (hf : t.fsm = s.fsm) (hc : t.cur = s.cur) (hr : t.rw = s.rw)
    (hn : t.len = s.len) (ha : t.addrb = s.addrb) (hb : t.bytecnt = s.bytecnt) : t.Running i := by
  obtain ⟨h1, h2⟩ := h
  refine ⟨by rwa [hf, hc], ?_⟩
  simpa only [State.AtByte, State.transferLatched, hf, hc, hr, hn, ha, hb] using h2

theorem Running_idle (hf : s.fsm = .idle) : s.Running i := ⟨fun h => absurd hf h, by simp [State.AtByte, hf]⟩

/-- The command whose latches a transfer state holds. -/
theorem transferLatched_instr (h : s.transferLatched) (hc : s.cur = some i) :
    (∃ addr, i = .xferW addr s.len ∧ s.rw = false) ∨ ∃ addr, i = .xferR addr s.len ∧ s.rw = true ∧ s.len ≠ 0 := by
  unfold State.transferLatched at h
  rw [hc] at h
  split at h
  · rename_i addr n hi
    obtain ⟨hr, rfl, -⟩ := h
    exact .inl ⟨addr, Option.some.inj hi, hr⟩
  · rename_i addr n hi
    obtain ⟨hr, rfl, -, hn⟩ := h
    exact .inr ⟨addr, Option.some.inj hi, hr, hn⟩
  · exact h.elim

/-- After the address was acknowledged with a payload to come, BYTECNT = 0 is below LEN. -/
theorem zero_lt_len (h : s.transferLatched) (hn : (!s.rw && s.len == 0) = false) : 0 < s.len := by
  have hne : s.len ≠ 0 := by
    unfold State.transferLatched at h
    split at h
    · simpa [h.1] using hn
    · exact h.2.1 ▸ h.2.2.2
    · exact h.elim
  bv_omega

theorem Running_countByte (hf : s.fsm = .ackData) (h : s.Running i) : (countByte s).Running i := by
  have hc : s.cur = some i := h.cur (by simp [hf])
  have hat : s.transferLatched ∧ s.bytecnt < s.len := by simpa [State.AtByte, hf] using h.atByte
  rcases countByte_cases s with ⟨-, he⟩ | ⟨hne, he⟩ <;> rw [he]
  · exact ⟨fun _ => hc, trivial⟩
  · have hlt : s.bytecnt + 1 < s.len := by
      have := hat.2
      bv_omega
    exact ⟨fun _ => hc, hat.1, hlt⟩

theorem SeqEnd.running (he : SeqEnd s t) (h : s.Running i) : t.Running i := by
  have hc := h.cur
  have hat := h.atByte
  cases he with
  | started hf | addressBit hf | addressByte hf =>
    simp only [State.AtByte, hf] at hat
    exact ⟨fun _ => hc (by simp [hf]), hat⟩
  | bitSent hf | bitReceived hf | byteSent hf | byteReceived hf =>
    simp only [State.AtByte, hf] at hat
    exact ⟨fun _ => hc (by simp [hf]), hat⟩
  | addressAcked hf hn =>
    simp only [State.AtByte, hf] at hat
    refine ⟨fun _ => hc (by simp [hf]), hat.1, ?_⟩
    show s.bytecnt < s.len
    rw [hat.2]
    exact zero_lt_len hat.1 hn
  | byteAnswered hf => exact Running_countByte hf h
  | byteAcked hf => exact Running_countByte (s := detectAck s) hf (Running_congr h rfl rfl rfl rfl rfl rfl)
  | stopped | lineFree | single | wbyteLast => exact Running_idle rfl
  | addressOnly hf | byteNacked hf | lineForced hf | lineHeld hf | pulseLast hf | pulseHeld hf | wbyteBit hf
  | rbyteBit hf => exact ⟨fun _ => hc (by simp [hf]), trivial⟩

theorem PrimOutcome.running (ho : PrimOutcome s t) (h : s.Running i) : t.Running i := by
  have hp : ∀ l, (performed l s).Running i := fun l =>
    Running_congr h (by simp) (by simp) (by simp) (by simp) (by simp) (by simp)
  cases ho with
  | lost => exact h
  | next => exact Running_congr (hp _) rfl rfl rfl rfl rfl rfl
  | last _ _ _ he => exact he.running (hp _)
  | wait => exact Running_congr h rfl rfl rfl rfl rfl rfl
  | fault => exact Running_idle rfl

theorem Running_entry (s : State) (hw : i.wf s.cfg = true) : (entry s i).Running i := by
  cases i with
  | start | stop | wbit | rbit | wbyte | rbyte | recover => exact ⟨fun _ => rfl, trivial⟩
  | xferW addr n => exact ⟨fun _ => rfl, ⟨rfl, rfl, addressByte_toNat addr false⟩, rfl⟩
  | xferR addr n =>
    have hn : n ≠ 0 := by simpa [Instr.wf] using hw
    rw [entry, if_neg hn]
    exact ⟨fun _ => rfl, ⟨rfl, rfl, addressByte_toNat addr true, hn⟩, rfl⟩
  | auxset bit value =>
    have haux : ¬ s.cfg.isI2c bit = true := by simpa [Instr.wf] using hw
    rw [entry, if_neg haux]
    exact ⟨fun _ => rfl, trivial⟩
  | txwr | rxrd => exact Running_idle rfl

/-- What holds after ILLEGAL_CMD and at the entry state, and is kept by every primitive of the command's run, holds after
the command. -/
theorem exec_running_induction {P : State → Prop} (hill : P (illegalCmd s)) (hentry : P (entry s i))
    (hstep : i.wf s.cfg = true → ∀ u, u.Running i → P u → u.fsm ≠ .idle → P (primStep u))
    (h : exec i s = .next t) : P t := by
  rcases exec_cases h with rfl | ⟨hw, rfl⟩
  · exact hill
  · refine (advance_induction (P := fun u => u.Running i ∧ P u) (fun u hu hb => ?_) _
      ⟨Running_entry s hw, hentry⟩).2
    exact ⟨(primStep_outcome u).running hu.1, hstep hw u hu.1 hu.2 hb⟩

theorem exec_cfg (h : exec i s = .next t) : t.cfg = s.cfg :=
  exec_running_induction (P := fun u => u.cfg = s.cfg) rfl (entry_keeps s i).1
    (fun _ u _ hP _ => (primStep_keeps u).1.trans hP) h

/-! ### RXBUF and TXBUF -/

theorem SeqEnd.rxbuf (he : SeqEnd s t) :
    t.rxbuf = s.rxbuf ∨ (s.fsm = .dataPhase ∧ s.rw = true ∧ ∃ v, t.rxbuf = s.rxbuf.write s.bytecnt.toNat v) := by
  cases he with
  | byteReceived hf hw => exact .inr ⟨hf, hw, _, rfl⟩
  | byteAnswered | byteAcked => exact .inl (by simp)
  | started | addressBit | addressByte | addressOnly | addressAcked | bitSent | bitReceived | byteSent | byteNacked
  | stopped | lineFree | lineForced | lineHeld | pulseLast | pulseHeld | single | wbyteLast | wbyteBit | rbyteBit =>
    exact .inl rfl

/-- One primitive writes no RXBUF entry but the one a read transfer is receiving. -/
theorem PrimOutcome.rxbuf (ho : PrimOutcome s t) :
    t.rxbuf = s.rxbuf ∨ (s.fsm = .dataPhase ∧ s.rw = true ∧ ∃ v, t.rxbuf = s.rxbuf.write s.bytecnt.toNat v) := by
  cases ho with
  | last _ _ _ he => simpa using he.rxbuf
  | next => exact .inl (by simp)
  | lost | wait | fault => exact .inl rfl

theorem PrimOutcome.readRx (ho : PrimOutcome s t) (hep : t.epoch = s.epoch) (h : s.Running i) (a : Byte) :
    readRx t a = readRx s a ∨ ∃ addr n, i = .xferR addr n ∧ a.toNat < n.toNat := by
  rcases ho.rxbuf with hsame | ⟨hf, hw, v, hv⟩
  · exact .inl (by simp only [Machine.readRx, hsame, hep])
  by_cases ha : a = s.bytecnt
  · have hat := h.atByte
    simp only [State.AtByte, hf] at hat
    obtain ⟨hlatch, hlt⟩ := hat
    rcases transferLatched_instr hlatch (h.cur (by simp [hf])) with ⟨_, -, hr⟩ | ⟨addr, rfl, -⟩
    · simp [hw] at hr
    · exact .inr ⟨addr, s.len, rfl, ha ▸ hlt⟩
  · have hne : a.toNat ≠ s.bytecnt.toNat := fun e => ha (BitVec.eq_of_toNat_eq e)
    exact .inl (by simp only [Machine.readRx, hv, hep, Memory.read_write_other _ _ _ _ hne])

theorem entry_txbuf (s : State) (i : Instr) :
    (entry s i).txbuf = s.txbuf ∨ ∃ a b, i = .txwr a b ∧ (entry s i).txbuf = s.txbuf.write a.toNat b := by
  cases i with
  | txwr a b => exact .inr ⟨a, b, rfl, rfl⟩
  | xferR | auxset => simp only [entry]; split <;> exact .inl rfl
  | start | stop | wbit | rbit | wbyte | rbyte | xferW | recover | rxrd => exact .inl rfl

theorem exec_readTx (h : exec i s = .next t) (a : Byte) : readTx t a = readTx s a ∨ ∃ b, i = .txwr a b := by
  rcases exec_cases h with rfl | ⟨-, rfl⟩
  · exact .inl rfl
  obtain ⟨-, htx, -, -, -, -, hep⟩ := advance_keeps Config.maxPrimitives (entry s i)
  obtain ⟨-, -, -, -, -, hep'⟩ := entry_keeps s i
  rcases entry_txbuf s i with hsame | ⟨a', b, rfl, hwr⟩
  · exact .inl (by simp only [readTx, htx, hep, hsame, hep'])
  · by_cases ha : a = a'
    · exact .inr ⟨b, by rw [ha]⟩
    · have hne : a.toNat ≠ a'.toNat := fun e => ha (BitVec.eq_of_toNat_eq e)
      exact .inl (by simp only [readTx, htx, hep, hwr, hep', Memory.read_write_other _ _ _ _ hne])

theorem entry_readRx (s : State) (i : Instr) (a : Byte) : readRx (entry s i) a = readRx s a := by
  obtain ⟨-, -, -, -, hrx, hep⟩ := entry_keeps s i
  simp only [readRx, hrx, hep]

theorem exec_readRx (h : exec i s = .next t) (a : Byte) :
    readRx t a = readRx s a ∨ ∃ addr n, i = .xferR addr n ∧ a.toNat < n.toNat := by
  refine exec_running_induction (P := fun u => readRx u a = readRx s a ∨ ∃ addr n, i = .xferR addr n ∧
    a.toNat < n.toNat) (.inl rfl) (.inl (entry_readRx s i a)) (fun _ u hu hP _ => ?_) h
  have hep : (primStep u).epoch = u.epoch := (primStep_keeps u).2.2.2.2.2.2
  rcases (primStep_outcome u).readRx hep hu a with hsame | hxfer
  · exact hP.imp_left hsame.trans
  · exact .inr hxfer

/-- Settles O44: TXBUF is stored by TXWR's entry alone and kept by every run; a run stores RXBUF only where it receives a
payload byte, whose index BYTECNT is below LEN. -/
theorem buffersHaveOneWriterEach : Obligations.BuffersHaveOneWriterEach := by
  unfold Obligations.BuffersHaveOneWriterEach
  exact fun s t i a h => ⟨(exec_readTx h a).resolve_left, (exec_readRx h a).resolve_left⟩

/-! ### ACKF -/

theorem SeqEnd.ackf (he : SeqEnd s t) :
    t.ackf = s.ackf ∨ s.fsm = .ackAddr ∨ s.fsm = .ackData ∨ ∃ b, s.cur = some (.wbyte b) := by
  cases he with
  | addressOnly hf | addressAcked hf => exact .inr (.inl hf)
  | byteAcked hf | byteNacked hf => exact .inr (.inr (.inl hf))
  | wbyteLast _ hc => exact .inr (.inr (.inr ⟨_, hc⟩))
  | byteAnswered => exact .inl (by simp)
  | started | addressBit | addressByte | bitSent | bitReceived | byteSent | byteReceived | stopped | lineFree
  | lineForced | lineHeld | pulseLast | pulseHeld | single | wbyteBit | rbyteBit => exact .inl rfl

theorem PrimOutcome.ackf (ho : PrimOutcome s t) :
    t.ackf = s.ackf ∨ s.fsm = .ackAddr ∨ s.fsm = .ackData ∨ ∃ b, s.cur = some (.wbyte b) := by
  cases ho with
  | last _ _ _ he => simpa using he.ackf
  | next => exact .inl (by simp)
  | lost | wait | fault => exact .inl rfl

/-- The commands that send a byte and detect its acknowledge (R33). -/
def SendsByte (i : Instr) : Prop :=
  (∃ v, i = .wbyte v) ∨ (∃ addr n, i = .xferW addr n) ∨ ∃ addr n, i = .xferR addr n

theorem sendsByte_of_latched (h : s.transferLatched) (hc : s.cur = some i) : SendsByte i := by
  rcases transferLatched_instr h hc with ⟨addr, hi, -⟩ | ⟨addr, hi, -⟩
  · exact .inr (.inl ⟨addr, _, hi⟩)
  · exact .inr (.inr ⟨addr, _, hi⟩)

theorem PrimOutcome.ackf_or_sendsByte (ho : PrimOutcome s t) (h : s.Running i) (hb : s.fsm ≠ .idle) :
    t.ackf = s.ackf ∨ SendsByte i := by
  have hat := h.atByte
  rcases ho.ackf with hsame | hf | hf | ⟨b, hc⟩
  · exact .inl hsame
  · simp only [State.AtByte, hf] at hat
    exact .inr (sendsByte_of_latched hat.1 (h.cur hb))
  · simp only [State.AtByte, hf] at hat
    exact .inr (sendsByte_of_latched hat.1 (h.cur hb))
  · exact .inr (.inl ⟨b, Option.some.inj ((h.cur hb).symm.trans hc)⟩)

/-- Settles O45: the ACK detector runs at the ninth bit of a WBYTE or of a transfer's byte only. -/
theorem ackFlagIsWrittenBySentBytesOnly : Obligations.AckFlagIsWrittenBySentBytesOnly := by
  unfold Obligations.AckFlagIsWrittenBySentBytesOnly
  intro s t i h
  obtain ⟨-, -, -, hack, -, -⟩ := entry_keeps s i
  have key : t.ackf = s.ackf ∨ SendsByte i :=
    exec_running_induction (P := fun u => u.ackf = s.ackf ∨ SendsByte i) (.inl rfl) (.inl hack)
      (fun _ u hu hP hb => ((primStep_outcome u).ackf_or_sendsByte hu hb).elim
        (fun hsame => hP.imp_left hsame.trans) .inr) h
  exact key.resolve_left

/-! ### The direction bits -/

/-- AUXSET's second primitive is performed by AUXSET alone, on its own bit. -/
theorem cur_of_nextLine_auxDir {j : Fin 8} (h : nextLine s = some (.auxDir j)) : ∃ v, s.cur = some (.auxset j v) := by
  have hmem : Line.auxDir j ∈ currentSeq s := List.mem_of_getElem? h
  cases hf : s.fsm with
  | idle | start | address | ackAddr | stop | recSample | recPulse =>
    simp [currentSeq, hf, startSeq, stopSeq, wbitSeq, rbitSeq, recSampleSeq, recPulseSeq] at hmem
  | dataPhase | ackData =>
    simp only [currentSeq, hf] at hmem
    split at hmem <;> simp [wbitSeq, rbitSeq] at hmem
  | single =>
    cases hc : s.cur with
    | none => simp [currentSeq, hf, hc] at hmem
    | some i =>
      simp only [currentSeq, hf, hc] at hmem
      cases i with
      | auxset bit value =>
        obtain rfl : j = bit := by simpa [singleSeq, auxSeq] using hmem
        exact ⟨value, rfl⟩
      | wbyte | rbyte =>
        simp only [singleSeq] at hmem
        split at hmem <;> simp [wbitSeq, rbitSeq] at hmem
      | start | stop | wbit | rbit | xferW | xferR | recover | txwr | rxrd =>
        simp [singleSeq, startSeq, stopSeq, wbitSeq, rbitSeq] at hmem

/-- A line step writes no direction bit but the data line's, and AUXSET's. -/
theorem testBit_portDir_perform {j : Fin 8} (hj : j ≠ s.cfg.sdaBit) (hl : l ≠ .auxDir j) :
    testBit (perform l s).portDir j = testBit s.portDir j := by
  cases l with
  | oe b => simp [hj]
  | auxDir k =>
    have hk : j ≠ k := fun e => hl (e ▸ rfl)
    simp [hk]
  | scl | sda | sample | auxOut => rfl

/-- A direction event carries the direction register after it (R11). -/
theorem perform_trace_dir (l : Line) (s : State) :
    ∃ v, (perform l s).trace = s.trace ++ [.done l v] ∧
      ∀ d, (Event.done l v).full = .dir d → d = (perform l s).portDir := by
  cases l with
  | oe | auxDir => exact ⟨_, rfl, fun d h => by simpa [Event.full, eq_comm] using h⟩
  | scl | sda | sample | auxOut => exact ⟨_, rfl, nofun⟩

/-- The direction bits a command may write: the data line's, and for AUXSET its auxiliary bit's (R25, R170). -/
def WritesDir (c : Config) (i : Instr) (j : Fin 8) : Prop :=
  j = c.sdaBit ∨ (c.isI2c j = false ∧ ∃ v, i = .auxset j v)

theorem not_writesDir_sclBit {c : Config} (hl : c.legal = true) : ¬ WritesDir c i c.sclBit := by
  rintro (heq | ⟨haux, -⟩)
  · simp [Config.legal, heq] at hl
  · simp [Config.isI2c] at haux

theorem not_writesDir_of_not_auxset {c : Config} {j : Fin 8} (hi : i.isAuxset = false) (hj : j ≠ c.sdaBit) :
    ¬ WritesDir c i j := by
  rintro (heq | ⟨-, v, rfl⟩)
  · exact hj heq
  · cases hi

/-- From s to t the direction bits are kept that command i does not write, and so they stand in every event. -/
def DirsKept (i : Instr) (s t : State) : Prop :=
  ∃ es, t.trace = s.trace ++ es ∧ ∀ j, ¬ WritesDir s.cfg i j →
    testBit t.portDir j = testBit s.portDir j ∧
    ∀ e ∈ es, ∀ d, e.full = .dir d → testBit d j = testBit s.portDir j

theorem DirsKept_of_eq (hd : t.portDir = s.portDir) (ht : t.trace = s.trace) : DirsKept i s t :=
  ⟨[], by simp [ht], fun j _ => ⟨by rw [hd], nofun⟩⟩

theorem DirsKept.trans {u : State} (h : DirsKept i s t) (hc : t.cfg = s.cfg) (h' : DirsKept i t u) :
    DirsKept i s u := by
  obtain ⟨es, ht, hes⟩ := h
  obtain ⟨es', ht', hes'⟩ := h'
  refine ⟨es ++ es', by rw [ht', ht, List.append_assoc], fun j hj => ?_⟩
  obtain ⟨hd, he⟩ := hes j hj
  obtain ⟨hd', he'⟩ := hes' j (hc ▸ hj)
  refine ⟨hd'.trans hd, fun e hmem d hfull => ?_⟩
  rcases List.mem_append.mp hmem with hmem | hmem
  · exact he e hmem d hfull
  · exact (he' e hmem d hfull).trans hd

/-- One primitive of command i. -/
theorem DirsKept_primStep (hwf : i.wf s.cfg = true) (h : s.Running i) (hb : s.fsm ≠ .idle) : DirsKept i s (primStep s) := by
  rcases primStep_cases s with ⟨he, -⟩ | ⟨l, hl, ⟨-, hd⟩ | ⟨-, hw⟩ | ⟨-, w, hf⟩⟩
  · exact DirsKept_of_eq (by rw [he]) (by rw [he])
  · obtain ⟨v, htr, hdir⟩ := perform_trace_dir l (takeAck s)
    refine ⟨[.done l v], hd.trace.trans htr, fun j hj => ?_⟩
    have hne : l ≠ .auxDir j := by
      rintro rfl
      obtain ⟨b, hc⟩ := cur_of_nextLine_auxDir hl
      obtain rfl : i = .auxset j b := Option.some.inj ((h.cur hb).symm.trans hc)
      exact hj (.inr ⟨by simpa [Instr.wf] using hwf, b, rfl⟩)
    have hbit : testBit (perform l (takeAck s)).portDir j = testBit s.portDir j :=
      testBit_portDir_perform (s := takeAck s) (mt .inl hj) hne
    refine ⟨by rw [hd.portDir, hbit], fun e he d hfull => ?_⟩
    obtain rfl := List.mem_singleton.mp he
    rw [hdir d hfull, hbit]
  · exact DirsKept_of_eq (by rw [hw]; rfl) (by rw [hw]; rfl)
  · refine ⟨[.fault], by rw [hf]; rfl, fun j _ => ⟨by rw [hf]; rfl, fun e he d hfull => ?_⟩⟩
    obtain rfl := List.mem_singleton.mp he
    cases hfull

theorem DirsKept_exec (h : exec i s = .next t) : DirsKept i s t := by
  have hentry : DirsKept i s (entry s i) := DirsKept_of_eq (entry_keeps s i).2.2.1 (entry_trace s i)
  refine (exec_running_induction (P := fun u => u.cfg = s.cfg ∧ DirsKept i s u) ⟨rfl, DirsKept_of_eq rfl rfl⟩
    ⟨(entry_keeps s i).1, hentry⟩ (fun hw u hu hP hb => ?_) h).2
  obtain ⟨hc, hkept⟩ := hP
  exact ⟨(primStep_keeps u).1.trans hc, hkept.trans hc (DirsKept_primStep (hc ▸ hw) hu hb)⟩

/-- Settles O46: no command writes the clock's direction bit, for AUXSET of an I2C bit is answered ILLEGAL_CMD; a bus
command writes no direction bit but the data line's. -/
theorem clockDirectionIsNeverWritten : Obligations.ClockDirectionIsNeverWritten := by
  unfold Obligations.ClockDirectionIsNeverWritten
  refine ⟨fun c => by simp [State.sclOe, State.resetWith, testBit_resetPortDir], fun s t i hl h => ?_⟩
  obtain ⟨es, htr, hes⟩ := DirsKept_exec h
  obtain ⟨hclk, hev⟩ := hes s.cfg.sclBit (not_writesDir_sclBit hl)
  refine ⟨?_, fun hi j hj => (hes j (not_writesDir_of_not_auxset hi hj)).1, es, htr, hev⟩
  rw [State.sclOe, exec_cfg h, hclk]
  rfl

end Sys2Proof.Machine
end

section
/-! PROOFS. Every command ends: how many primitives are left (R148, R160, R244). -/

namespace Sys2Proof.Machine

variable {s t : State} {i : Instr} {l : Line}

/-- The engine is idle, or its position names a primitive (R38). -/
def State.Located (s : State) : Prop := s.fsm ≠ .idle → s.phase < (currentSeq s).length

theorem State.Located.nextLine (h : s.Located) (hb : s.fsm ≠ .idle) : ∃ l, nextLine s = some l :=
  ⟨_, List.getElem?_eq_getElem (h hb)⟩

/-- The bits left after this one of a byte whose BITCNT counts down to 0. -/
def bitsLeft (s : State) : Nat := (s.bitcnt - 1).toNat

/-- The payload bytes left after this one (R146: STOP when BYTECNT = LEN). -/
def bytesLeft (s : State) : Nat := (s.len - s.bytecnt - 1).toNat

/-- The payload bytes an acknowledged address is followed by. -/
def payloadLeft (s : State) : Nat := if !s.rw && s.len == 0 then 0 else bytesLeft s + 1

/-- The pulses a line that stays held still gets after this one (R161); the pulse is counted after its phase 1. -/
def pulsesLeft (s : State) : Nat :=
  Config.recoverMaxPulses - (if s.phase ≤ 1 then s.pulsecnt + 1 else s.pulsecnt).toNat

/-- The most primitives that follow the current sub-sequence: 4 per bit, 36 per byte with its acknowledge, 3 per pulse,
6 for the STOP. -/
def afterSeq (s : State) : Nat :=
  match s.fsm with
  | .idle => 0
  | .start => 32 + 4 + 36 * payloadLeft s + 6
  | .address => 4 * bitsLeft s + 4 + 36 * payloadLeft s + 6
  | .ackAddr => 36 * payloadLeft s + 6
  | .dataPhase => 4 * bitsLeft s + 4 + 36 * bytesLeft s + 6
  | .ackData => 36 * bytesLeft s + 6
  | .stop => 0
  | .recSample => 3 + 3 * pulsesLeft s + 6
  | .recPulse => 3 * pulsesLeft s + 6
  | .single =>
    match s.cur with
    | some (.wbyte _) => 4 * s.bitcnt.toNat
    | some (.rbyte _) => 4 * s.bitcnt.toNat
    | _ => 0

/-- The most primitives left. -/
def remaining (s : State) : Nat := (currentSeq s).length - s.phase + afterSeq s

theorem remaining_idle (hi : s.fsm = .idle) : remaining s = 0 := by simp [remaining, currentSeq, afterSeq, hi]

/-! ### Each primitive is one fewer -/

theorem bitsLeft_pred {b : BitVec 4} (h : b ≠ 0) : (b - 1).toNat + 1 = b.toNat := by bv_omega

theorem bitsLeft_loadByte (v : Byte) (s : State) : bitsLeft (loadByte v s) = 7 := by simp [bitsLeft]

theorem length_dataSeq (r b : Bool) : (if r then rbitSeq else wbitSeq b).length = 4 := by split <;> rfl

theorem length_ackSeq (r b : Bool) : (if r then wbitSeq b else rbitSeq).length = 4 := by split <;> rfl

/-- A bit of a byte command in state SINGLE, the ninth one included, has four primitives. -/
theorem length_singleSeq_byte (hf : s.fsm = .single) (hc : (∃ b, s.cur = some (.wbyte b)) ∨ ∃ a, s.cur = some (.rbyte a)) :
    (currentSeq s).length = 4 := by
  rcases hc with ⟨b, hc⟩ | ⟨a, hc⟩ <;> simp only [currentSeq, hf, hc, singleSeq] <;> split <;> rfl

/-- At the start of a sub-sequence with primitives. -/
theorem located_remaining_start {n m : Nat} (hp : s.phase = 0) (hn : (currentSeq s).length = n) (hpos : 0 < n)
    (hm : n + afterSeq s ≤ m) : s.Located ∧ remaining s ≤ m :=
  ⟨fun _ => by omega, by simpa [remaining, hp, hn] using hm⟩

theorem located_remaining_idle {m : Nat} (hi : s.fsm = .idle) : s.Located ∧ remaining s ≤ m :=
  ⟨fun hb => absurd hi hb, by simp [remaining_idle hi]⟩

theorem located_remaining_enterStop {m : Nat} (st : Status) (hm : 6 ≤ m) :
    (enterStop st s).Located ∧ remaining (enterStop st s) ≤ m :=
  located_remaining_start (n := 6) rfl rfl (by decide) hm

theorem located_remaining_enterData {m : Nat} (hm : 36 + 36 * bytesLeft s + 6 ≤ m) :
    (enterData s).Located ∧ remaining (enterData s) ≤ m := by
  refine located_remaining_start rfl (length_dataSeq _ _) (by decide) ?_
  have hbits : bitsLeft (enterData s) = 7 := by simp [bitsLeft, enterData]
  show 4 + (4 * bitsLeft (enterData s) + 4 + 36 * bytesLeft s + 6) ≤ m
  omega

theorem located_remaining_countByte : (countByte s).Located ∧ remaining (countByte s) ≤ 36 * bytesLeft s + 6 := by
  rcases countByte_cases s with ⟨-, he⟩ | ⟨hne, he⟩ <;> rw [he]
  · exact located_remaining_enterStop _ (by omega)
  · have hleft : bytesLeft (addByte s) + 1 = bytesLeft s := by
      simp only [bytesLeft, addByte_len, addByte_bytecnt]
      bv_omega
    exact located_remaining_enterData (by omega)

/-- The pulse after a held sample. -/
theorem located_remaining_enter_recPulse {m : Nat}
    (hm : 3 + (3 * (Config.recoverMaxPulses - (s.pulsecnt + 1).toNat) + 6) ≤ m) :
    (enter .recPulse s).Located ∧ remaining (enter .recPulse s) ≤ m :=
  located_remaining_start (n := 3) rfl rfl (by decide) hm

theorem SeqEnd.located_remaining (he : SeqEnd s t) (hp : s.fsm = .recPulse → ¬ s.phase ≤ 1)
    (hq : s.fsm = .recSample → s.phase ≤ 1) : t.Located ∧ remaining t ≤ afterSeq s := by
  cases he with
  | started hf =>
    refine located_remaining_start (n := 4) rfl rfl (by decide) ?_
    have hbits := bitsLeft_loadByte s.addrb s
    show 4 + (4 * bitsLeft (loadByte s.addrb s) + 4 + 36 * payloadLeft s + 6) ≤ afterSeq s
    simp only [afterSeq, hf]
    omega
  | addressBit hf hz =>
    refine located_remaining_start (n := 4) rfl rfl (by decide) ?_
    show 4 + (4 * (s.bitcnt - 1 - 1).toNat + 4 + 36 * payloadLeft s + 6) ≤ afterSeq s
    have := bitsLeft_pred hz
    simp only [afterSeq, hf, bitsLeft]
    omega
  | addressByte hf =>
    refine located_remaining_start (n := 4) rfl rfl (by decide) ?_
    show 4 + (36 * payloadLeft s + 6) ≤ afterSeq s
    simp only [afterSeq, hf]
    omega
  | addressOnly hf =>
    refine located_remaining_enterStop _ ?_
    simp only [afterSeq, hf]
    omega
  | addressAcked hf hn =>
    refine located_remaining_enterData ?_
    show 36 + 36 * bytesLeft s + 6 ≤ afterSeq s
    have hpay : payloadLeft s = bytesLeft s + 1 := by simp only [payloadLeft, hn, Bool.false_eq_true, if_false]
    simp only [afterSeq, hf, hpay]
    omega
  | bitSent hf hz | bitReceived hf hz =>
    refine located_remaining_start rfl (length_dataSeq _ _) (by decide) ?_
    show 4 + (4 * (s.bitcnt - 1 - 1).toNat + 4 + 36 * bytesLeft s + 6) ≤ afterSeq s
    have := bitsLeft_pred hz
    simp only [afterSeq, hf, bitsLeft]
    omega
  | byteSent hf | byteReceived hf =>
    refine located_remaining_start rfl (length_ackSeq _ _) (by decide) ?_
    show 4 + (36 * bytesLeft s + 6) ≤ afterSeq s
    simp only [afterSeq, hf]
    omega
  | byteAnswered hf =>
    simp only [afterSeq, hf]
    exact located_remaining_countByte
  | byteAcked hf =>
    simp only [afterSeq, hf]
    exact located_remaining_countByte (s := detectAck s)
  | byteNacked hf =>
    refine located_remaining_enterStop _ ?_
    simp only [afterSeq, hf]
    omega
  | stopped | lineFree | single | wbyteLast => exact located_remaining_idle rfl
  | lineForced hf | pulseLast hf =>
    refine located_remaining_enterStop _ ?_
    simp only [afterSeq, hf]
    omega
  | lineHeld hf =>
    refine located_remaining_enter_recPulse ?_
    simp only [afterSeq, hf, pulsesLeft, if_pos (hq hf)]
    omega
  | pulseHeld hf hlt =>
    refine located_remaining_enter_recPulse ?_
    have hadd : (s.pulsecnt + 1).toNat = s.pulsecnt.toNat + 1 := by
      have : s.pulsecnt.toNat < 10 := hlt
      bv_omega
    simp only [afterSeq, hf, pulsesLeft, if_neg (hp hf)]
    omega
  | wbyteBit hf hc hz =>
    refine located_remaining_start rfl (length_singleSeq_byte rfl (.inl ⟨_, hc⟩)) (by decide) ?_
    have hafter : afterSeq (enter .single (shiftOut s)) = 4 * (s.bitcnt - 1).toNat := by simp [afterSeq, hc]
    have := bitsLeft_pred hz
    rw [hafter]
    simp only [afterSeq, hf, hc]
    omega
  | rbyteBit hf hc hz =>
    refine located_remaining_start rfl (length_singleSeq_byte rfl (.inr ⟨_, hc⟩)) (by decide) ?_
    have hafter : afterSeq (enter .single (shiftIn s)) = 4 * (s.bitcnt - 1).toNat := by simp [afterSeq, hc]
    have := bitsLeft_pred hz
    rw [hafter]
    simp only [afterSeq, hf, hc]
    omega

/-- What follows the sub-sequence depends on the registers it names; on PULSECNT and the phase only in a recovery. -/
theorem afterSeq_congr (hf : t.fsm = s.fsm) (hc : t.cur = s.cur) (hr : t.rw = s.rw) (hl : t.len = s.len)
    (hby : t.bytecnt = s.bytecnt) (hbi : t.bitcnt = s.bitcnt)
    (hp : s.fsm = .recSample ∨ s.fsm = .recPulse → pulsesLeft t = pulsesLeft s) : afterSeq t = afterSeq s := by
  simp only [afterSeq, payloadLeft, bytesLeft, bitsLeft, hf, hc, hr, hl, hby, hbi]
  cases hs : s.fsm with
  | recSample => simp only [hp (.inl hs)]
  | recPulse => simp only [hp (.inr hs)]
  | idle | start | address | ackAddr | dataPhase | ackData | stop | single => rfl

theorem performed_pulsecnt (l : Line) (s : State) :
    (performed l s).pulsecnt = if s.fsm = .recPulse ∧ s.phase = 1 then s.pulsecnt + 1 else s.pulsecnt := by
  simp only [performed, countPulse, perform_fsm, takeAck_fsm, perform_phase, takeAck_phase]
  split <;> simp

/-- Before its last primitive a recovery's sub-sequence is at phase 0, or at phase 1 of a pulse, where the pulse counted is
the one `pulsesLeft` has taken off already. -/
theorem pulsesLeft_next (l : Line) (hf : s.fsm = .recSample ∨ s.fsm = .recPulse)
    (hlt : s.phase + 1 < (currentSeq s).length) :
    pulsesLeft (setPhase (s.phase + 1) (performed l s)) = pulsesLeft s := by
  simp only [pulsesLeft, setPhase_phase, setPhase_pulsecnt, performed_pulsecnt]
  rcases hf with hf | hf
  · have hp : s.phase = 0 := by
      simp only [currentSeq, hf, recSampleSeq, List.length_cons, List.length_nil] at hlt
      omega
    simp [hf, hp]
  · have hp : s.phase = 0 ∨ s.phase = 1 := by
      simp only [currentSeq, hf, recPulseSeq, List.length_cons, List.length_nil] at hlt
      omega
    rcases hp with hp | hp <;> simp [hf, hp]

theorem pulsesLeft_last (l : Line) (hp : s.fsm = .recPulse → ¬ s.phase ≤ 1) :
    pulsesLeft (performed l s) = pulsesLeft s := by
  have hno : ¬ (s.fsm = .recPulse ∧ s.phase = 1) := fun h => hp h.1 (by omega)
  simp only [pulsesLeft, performed_phase, performed_pulsecnt, if_neg hno]

theorem afterSeq_lt_remaining (h : s.Located) (hb : s.fsm ≠ .idle) : afterSeq s < remaining s := by
  have := h hb
  rw [remaining]
  omega

/-- A primitive that is answered leaves at least one fewer. -/
theorem PrimOutcome.progress (ho : PrimOutcome s t) (h : s.Located) (hb : s.fsm ≠ .idle) (ha : s.world.ack ≠ .wait) :
    t.Located ∧ remaining t < remaining s := by
  have hlen := h hb
  cases ho with
  | lost hl =>
    obtain ⟨l, hl'⟩ := h.nextLine hb
    simp [hl] at hl'
  | wait hw => exact absurd hw ha
  | fault =>
    refine ⟨fun hb' => absurd rfl hb', ?_⟩
    rw [remaining_idle rfl]
    exact Nat.zero_lt_of_lt (afterSeq_lt_remaining h hb)
  | @next l _ _ hlt =>
    have hafter : afterSeq (setPhase (s.phase + 1) (performed l s)) = afterSeq s :=
      afterSeq_congr (by simp) (by simp) (by simp) (by simp) (by simp) (by simp) (fun hf => pulsesLeft_next l hf hlt)
    refine ⟨fun _ => by simpa using hlt, ?_⟩
    simp only [remaining, hafter, currentSeq_setPhase, currentSeq_performed, setPhase_phase]
    omega
  | @last l _ _ _ hge he =>
    have hpulse : s.fsm = .recPulse → ¬ s.phase ≤ 1 := fun hf => by
      simp only [currentSeq, hf, recPulseSeq, List.length_cons, List.length_nil] at hge
      omega
    have hsample : s.fsm = .recSample → s.phase ≤ 1 := fun hf => by
      simp only [currentSeq, hf, recSampleSeq, List.length_cons, List.length_nil] at hlen
      omega
    obtain ⟨hloc, hrem⟩ := he.located_remaining (by simpa using hpulse) (by simpa using hsample)
    have hafter : afterSeq (performed l s) = afterSeq s :=
      afterSeq_congr (by simp) (by simp) (by simp) (by simp) (by simp) (by simp) (fun _ => pulsesLeft_last l hpulse)
    exact ⟨hloc, by have := afterSeq_lt_remaining h hb; omega⟩

theorem primStep_progress (h : s.Located) (hb : s.fsm ≠ .idle) (ha : s.world.ack ≠ .wait) :
    (primStep s).Located ∧ remaining (primStep s) < remaining s := (primStep_outcome s).progress h hb ha

/-- More fuel than primitives are left changes nothing of a run. -/
theorem advance_fuel {m n : Nat} (h : s.Located) (hm : remaining s ≤ m) (hn : m ≤ n) : advance n s = advance m s := by
  induction m generalizing s n with
  | zero =>
    have hi : s.fsm = .idle := by
      by_contra hb
      have := afterSeq_lt_remaining h hb
      omega
    rw [advance_idle hi, advance_idle hi]
  | succ m ih =>
    obtain ⟨n, rfl⟩ : ∃ k, n = k + 1 := ⟨n - 1, by omega⟩
    by_cases hb : s.fsm = .idle
    · rw [advance_idle hb, advance_idle hb]
    by_cases ha : s.world.ack = .wait
    · rw [advance_wait hb ha, advance_wait hb ha]
    · rw [advance_succ hb ha, advance_succ hb ha]
      obtain ⟨hloc, hrem⟩ := primStep_progress h hb ha
      exact ih hloc (by omega) (by omega)

/-! ### The bound of each command -/

theorem payloadLeft_le (hb : s.bytecnt = 0) (hn : s.rw = true → s.len ≠ 0) : payloadLeft s ≤ s.len.toNat := by
  unfold payloadLeft
  split
  · exact Nat.zero_le _
  · rename_i hc
    have hlen : s.len ≠ 0 := fun h0 => by
      cases hr : s.rw with
      | true => exact hn hr h0
      | false => simp [hr, h0] at hc
    simp only [bytesLeft, hb]
    bv_omega

/-- The entry state of a command has at most `maxPrims` primitives left. -/
theorem located_remaining_entry (s : State) (hw : i.wf s.cfg = true) :
    (entry s i).Located ∧ remaining (entry s i) ≤ i.maxPrims := by
  cases i with
  | start => exact located_remaining_start (n := 5) rfl rfl (by decide) (Nat.le_refl 5)
  | stop => exact located_remaining_start (n := 6) rfl rfl (by decide) (Nat.le_refl 6)
  | wbit | rbit => exact located_remaining_start (n := 4) rfl rfl (by decide) (Nat.le_refl 4)
  | wbyte b =>
    exact located_remaining_start (n := 4) rfl (length_singleSeq_byte rfl (.inl ⟨_, rfl⟩)) (by decide) (Nat.le_refl 36)
  | rbyte a =>
    exact located_remaining_start (n := 4) rfl (length_singleSeq_byte rfl (.inr ⟨_, rfl⟩)) (by decide) (Nat.le_refl 36)
  | xferW addr n =>
    refine located_remaining_start (n := 5) rfl rfl (by decide) ?_
    have hpay := payloadLeft_le (s := entry s (.xferW addr n)) rfl nofun
    show 5 + (32 + 4 + 36 * payloadLeft (entry s (.xferW addr n)) + 6) ≤ 47 + 36 * n.toNat
    change _ ≤ n.toNat at hpay
    omega
  | xferR addr n =>
    have hn : n ≠ 0 := by simpa [Instr.wf] using hw
    rw [entry, if_neg hn]
    refine located_remaining_start (n := 5) rfl rfl (by decide) ?_
    have hpay := payloadLeft_le (s := latchTransfer addr true n (accept (.xferR addr n) .start s)) rfl fun _ => hn
    show 5 + (32 + 4 + 36 * payloadLeft (latchTransfer addr true n (accept (.xferR addr n) .start s)) + 6) ≤
      47 + 36 * n.toNat
    change _ ≤ n.toNat at hpay
    omega
  | recover => exact located_remaining_start (n := 2) rfl rfl (by decide) (Nat.le_refl 38)
  | auxset bit value =>
    have haux : ¬ s.cfg.isI2c bit = true := by simpa [Instr.wf] using hw
    rw [entry, if_neg haux]
    exact located_remaining_start (n := 2) rfl rfl (by decide) (Nat.le_refl 2)
  | txwr | rxrd => exact located_remaining_idle rfl

theorem maxPrims_le (i : Instr) : i.maxPrims ≤ Config.maxPrimitives := by
  cases i with
  | xferW _ n | xferR _ n =>
    have := n.isLt
    simp only [Instr.maxPrims, Config.maxPrimitives]
    omega
  | start | stop | wbit | rbit | wbyte | rbyte | recover | auxset | txwr | rxrd =>
    simp [Instr.maxPrims, Config.maxPrimitives, Config.recoverMaxPulses]

end Sys2Proof.Machine
end

section
/-! PROOFS. A wait changes nothing but when (R43, U16, log 1): the run cut by a wait and resumed is the run without it. -/

namespace Sys2Proof.Machine

variable {s t : State} {i : Instr} {l : Line}

/-! ### The answers to come are read by the environment's handshake alone -/

/-- The engine with other answers of the environment to come. -/
def withAcks (as : List PadAck) (s : State) : State := { s with world := { s.world with padAck := as } }

@[simp] theorem withAcks_fsm (as : List PadAck) (s : State) : (withAcks as s).fsm = s.fsm := rfl
@[simp] theorem withAcks_cur (as : List PadAck) (s : State) : (withAcks as s).cur = s.cur := rfl

theorem finishSingle_withAcks (as : List PadAck) (s : State) (i : Instr) :
    finishSingle (withAcks as s) i = withAcks as (finishSingle s i) := by
  cases i with
  | wbyte | rbyte => exact ite_rel (R := (· = withAcks as ·)) rfl rfl
  | start | stop | wbit | rbit | auxset | xferW | xferR | recover | txwr | rxrd => rfl

theorem finishSeq_withAcks (as : List PadAck) (s : State) :
    finishSeq (withAcks as s) = withAcks as (finishSeq s) := by
  cases hf : s.fsm with
  | idle | start | stop => simp only [finishSeq, withAcks_fsm, hf] <;> rfl
  | address =>
    simp only [finishSeq, withAcks_fsm, hf]
    exact ite_rel (R := (· = withAcks as ·)) rfl rfl
  | ackAddr =>
    simp only [finishSeq, withAcks_fsm, hf]
    exact ite_rel (R := (· = withAcks as ·)) rfl (ite_rel (R := (· = withAcks as ·)) rfl rfl)
  | dataPhase =>
    simp only [finishSeq, withAcks_fsm, hf]
    exact ite_rel (R := (· = withAcks as ·)) (ite_rel (R := (· = withAcks as ·)) rfl rfl)
      (ite_rel (R := (· = withAcks as ·)) rfl rfl)
  | ackData =>
    have hcount : ∀ u, countByte (withAcks as u) = withAcks as (countByte u) :=
      fun _ => ite_rel (R := (· = withAcks as ·)) rfl rfl
    simp only [finishSeq, withAcks_fsm, hf]
    exact ite_rel (R := (· = withAcks as ·)) (hcount s)
      (ite_rel (R := (· = withAcks as ·)) (hcount (detectAck s)) rfl)
  | recSample =>
    simp only [finishSeq, withAcks_fsm, hf]
    exact ite_rel (R := (· = withAcks as ·)) (ite_rel (R := (· = withAcks as ·)) rfl rfl) rfl
  | recPulse =>
    simp only [finishSeq, withAcks_fsm, hf]
    exact ite_rel (R := (· = withAcks as ·)) rfl (ite_rel (R := (· = withAcks as ·)) rfl rfl)
  | single =>
    cases hc : s.cur with
    | none => simp only [finishSeq, withAcks_fsm, withAcks_cur, hf, hc]
    | some i =>
      simp only [finishSeq, withAcks_fsm, withAcks_cur, hf, hc]
      exact finishSingle_withAcks as s i

theorem advancePhase_withAcks (as : List PadAck) (s : State) :
    advancePhase (withAcks as s) = withAcks as (advancePhase s) :=
  ite_rel (R := (· = withAcks as ·)) rfl (finishSeq_withAcks as s)

theorem perform_withAcks (as : List PadAck) (l : Line) (s : State) :
    perform l (withAcks as s) = withAcks as (perform l s) := by
  cases l with
  | sample => cases h : s.world.padIn <;> simp [withAcks, padRead, World.portIn, World.dropIn, h]
  | scl | sda | oe | auxOut | auxDir => rfl

theorem countPulse_withAcks (as : List PadAck) (s : State) :
    countPulse (withAcks as s) = withAcks as (countPulse s) :=
  ite_rel (R := (· = withAcks as ·)) rfl rfl

/-- A primitive that is done takes its one answer and reads none of those after it. -/
theorem primStep_withAcks_done (h : s.Located) (hb : s.fsm ≠ .idle) :
    ∃ u, ∀ as, primStep (withAcks (.done :: as) s) = withAcks as u := by
  obtain ⟨l, hl⟩ := h.nextLine hb
  refine ⟨advancePhase (countPulse (perform l s)), fun as => ?_⟩
  rw [primStep_done (s := withAcks (.done :: as) s) hl rfl]
  show advancePhase (countPulse (perform l (withAcks as s))) = _
  rw [perform_withAcks, countPulse_withAcks, advancePhase_withAcks]

/-- A run that leaves the engine busy found it busy. -/
theorem busy_of_advance {n : Nat} (hb : (advance n s).fsm ≠ .idle) : s.fsm ≠ .idle :=
  fun hi => hb (by rwa [advance_idle hi])

/-- A run in which done answers come before a wait, and that is not over by then, is cut by the wait in a state from which
the run without the wait goes on. -/
theorem advance_cut_by_wait {as bs : List PadAck} {n : Nat} (hd : ∀ a ∈ as, a = .done) (h : s.Located)
    (hn : remaining s ≤ n) (ht : advance n (withAcks (as ++ .wait :: bs) s) = t) (hb : t.fsm ≠ .idle) :
    t.Located ∧ ∃ m, remaining t ≤ m ∧ m ≤ n ∧ advance n (withAcks (as ++ bs) s) = advance m t := by
  induction as generalizing s n with
  | nil =>
    have hbs : s.fsm ≠ .idle := busy_of_advance (s := withAcks (.wait :: bs) s) (ht ▸ hb)
    obtain ⟨k, rfl⟩ : ∃ k, n = k + 1 := ⟨n - 1, by have := afterSeq_lt_remaining h hbs; omega⟩
    obtain ⟨l, hl⟩ := h.nextLine hbs
    have hcut : advance (k + 1) (withAcks (.wait :: bs) s) = withAcks bs s :=
      (advance_wait (s := withAcks (.wait :: bs) s) hbs rfl k).trans (primStep_wait (s := withAcks _ s) hl rfl)
    obtain rfl : withAcks bs s = t := hcut.symm.trans ht
    exact ⟨h, k + 1, hn, Nat.le_refl _, rfl⟩
  | cons a as ih =>
    obtain rfl : a = .done := hd a List.mem_cons_self
    have hbs : s.fsm ≠ .idle := busy_of_advance (s := withAcks (.done :: (as ++ .wait :: bs)) s) (ht ▸ hb)
    obtain ⟨k, rfl⟩ : ∃ k, n = k + 1 := ⟨n - 1, by have := afterSeq_lt_remaining h hbs; omega⟩
    obtain ⟨u, hu⟩ := primStep_withAcks_done h hbs
    have hrun (cs : List PadAck) : advance (k + 1) (withAcks (.done :: cs) s) = advance k (withAcks cs u) := by
      rw [advance_succ (s := withAcks (.done :: cs) s) hbs nofun, hu]
    have hprogress := primStep_progress (s := withAcks [.done] s) h hbs nofun
    rw [hu] at hprogress
    obtain ⟨hloc, hrem⟩ : u.Located ∧ remaining u < remaining s := hprogress
    obtain ⟨htl, m, hm, hmk, heq⟩ :=
      ih (fun a ha => hd a (List.mem_cons_of_mem _ ha)) hloc (by omega) ((hrun _).symm.trans ht)
    exact ⟨htl, m, hm, by omega, (hrun _).trans heq⟩

/-! ### The command and its resumption -/

theorem entry_withAcks (as : List PadAck) (s : State) (i : Instr) :
    entry (withAcks as s) i = withAcks as (entry s i) := by
  cases i with
  | xferR | auxset => exact ite_rel (R := (· = withAcks as ·)) rfl rfl
  | start | stop | wbit | rbit | wbyte | rbyte | xferW | recover | txwr | rxrd => rfl

theorem exec_withAcks (as : List PadAck) (i : Instr) (hi : s.fsm = .idle) :
    exec i (withAcks as s) = .next (advance Config.maxPrimitives (withAcks as (entry s i))) := by
  rw [exec_eq_advance_entry (s := withAcks as s) i hi, entry_withAcks]

/-- No primitive reads the host's pins to come. -/
theorem primStep_pins (s : State) : (primStep s).world.pins = s.world.pins := by
  cases hl : nextLine s with
  | none => simp [primStep, hl]
  | some l =>
    cases ha : s.world.ack with
    | done =>
      rw [primStep_done hl ha, (advancePhase_same _).world]
      simp
    | wait =>
      rw [primStep_wait hl ha]
      simp
    | fault =>
      obtain ⟨w, hw, hpins⟩ := performFault_eq l (takeAck s)
      rw [primStep_fault hl ha, busTimeout, hw]
      simpa using hpins

theorem exec_pins (h : exec i s = .next t) : t.world.pins = s.world.pins :=
  exec_running_induction (P := fun u => u.world.pins = s.world.pins) rfl (by rw [(entry_keeps s i).2.1])
    (fun _ u _ hP _ => (primStep_pins u).trans hP) h

/-- With no pins to come, the pins read are the quiet ones, and none are taken (log 6). -/
theorem takePins_of_no_pins (h : s.world.pins = []) : takePins s = s := by
  have htail : s.world.pins.tail = s.world.pins := by rw [h, List.tail_nil]
  rw [takePins, World.dropPins, htail]

/-- A paused engine resumed by a step with quiet pins. -/
theorem step_resumes (hl : s.cfg.legal = true) (hp : s.world.pins = []) (h : s.Located) (hb : s.fsm ≠ .idle) :
    step s = .next (advance Config.maxPrimitives s) := by
  obtain ⟨l, hn⟩ := h.nextLine hb
  rw [step_runs hl (by rw [World.hostPins, hp]) hb (by simp [hn]), takePins_of_no_pins hp]

/-- Settles O51: the wait cuts the run in a state from which the run without it goes on (`advance_cut_by_wait`), and the
resumed run's longer fuel changes nothing (`advance_fuel`), since every command ends within its bound. -/
theorem pausedCommandResumesUnchanged : Obligations.PausedCommandResumesUnchanged := by
  unfold Obligations.PausedCommandResumesUnchanged
  intro s i as bs t hs hw hd hp ht hb
  have hcfg : t.cfg = s.cfg := exec_cfg (s := withAcks (as ++ .wait :: bs) s) ht
  have hpins : t.world.pins = [] := (exec_pins (s := withAcks (as ++ .wait :: bs) s) ht).trans hp
  obtain ⟨hloc, hrem⟩ := located_remaining_entry s hw
  have hrun := Host.Outcome.next.inj ((exec_withAcks (as ++ .wait :: bs) i hs.idle).symm.trans ht)
  obtain ⟨htl, m, hm, hmn, heq⟩ := advance_cut_by_wait hd hloc (hrem.trans (maxPrims_le i)) hrun hb
  calc step t = .next (advance Config.maxPrimitives t) := step_resumes (hcfg ▸ hs.legal) hpins htl hb
    _ = .next (advance m t) := by rw [advance_fuel htl hm hmn]
    _ = .next (advance Config.maxPrimitives (withAcks (as ++ bs) (entry s i))) := by rw [heq]
    _ = exec i (withAcks (as ++ bs) s) := (exec_withAcks (as ++ bs) i hs.idle).symm

end Sys2Proof.Machine
end

section
/-! PROOFS. What each completed line step writes (R67, R68), and that the engine samples with the data line released
(R74). -/

namespace Sys2Proof.Machine

variable {s t : State} {i : Instr} {l : Line}

/-! ### The register of a line step -/

/-- Settles O12: PadWrite and PadDir insert their one bit into their register, PadRead extracts SBIT from the value read;
all else stands in the definitions of the three primitives. -/
theorem donePrimitiveWritesItsRegister : Obligations.DonePrimitiveWritesItsRegister := by
  unfold Obligations.DonePrimitiveWritesItsRegister
  intro s b
  refine ⟨⟨fun j => ?scl, rfl, rfl, rfl⟩, ⟨fun j => ?sda, rfl, rfl, rfl⟩, ⟨fun j => ?oe, rfl, rfl, rfl⟩,
    rfl, rfl, rfl, rfl⟩
  case scl => rw [perform_scl, padWrite_portOut, testBit_insertBit]
  case sda => rw [perform_sda, padWrite_portOut, testBit_insertBit]
  case oe => rw [perform_oe, padDir_portDir, maskedWrite_bit, testBit_insertBit]

/-! ### The line steps to come -/

/-- A completed line step before other events: a sample needs the data line released, and the events after it begin at
the direction it leaves. -/
theorem samplesReleased_done (hl : l ≠ .auxDir s.cfg.sdaBit) (v : Byte) (es : List Event) :
    samplesReleased s.sdaOe (.done l v :: es) = true ↔
      (l = .sample → s.sdaOe = false) ∧ samplesReleased (perform l s).sdaOe es = true := by
  cases l with
  | scl | sda | oe | sample | auxOut => simp [samplesReleased, State.sdaOe]
  | auxDir j =>
    have hj : s.cfg.sdaBit ≠ j := fun h => hl (h ▸ rfl)
    simp [samplesReleased, State.sdaOe, hj]

/-- Line steps performed one after another, from a direction of the data line on, sample with the line released. The
values of their events do not matter. -/
def linesReleased (o : Bool) (ls : List Line) : Bool := samplesReleased o (ls.map (.done · 0))

/-- What follows the current sub-sequence of a recovery without another release: the sample of a pulse (R161). -/
def pulseSample (s : State) : List Line := if s.fsm = .recSample ∨ s.fsm = .recPulse then [.sample] else []

theorem pulseSample_performed (l : Line) (s : State) : pulseSample (performed l s) = pulseSample s := by
  simp [pulseSample]

/-- The rest of the current sub-sequence, and in a recovery the sample of a further pulse, find the line released. -/
def State.ReleasedAhead (s : State) : Prop :=
  linesReleased s.sdaOe ((currentSeq s).drop s.phase ++ pulseSample s) = true

theorem linesReleased_singleSeq (o : Bool) (s : State) (i : Instr) : linesReleased o (singleSeq s i) = true := by
  cases i with
  | wbyte | rbyte => simp only [singleSeq]; split <;> rfl
  | start | stop | wbit | rbit | auxset | xferW | xferR | recover | txwr | rxrd => rfl

/-- Every sub-sequence releases the line before its sample, but REC_PULSE, which finds it released. -/
theorem ReleasedAhead_start (hp : s.phase = 0) (hr : s.fsm = .recPulse → s.sdaOe = false) : s.ReleasedAhead := by
  unfold State.ReleasedAhead
  rw [hp, List.drop_zero]
  cases hf : s.fsm with
  | recPulse => rw [hr hf]; simp only [currentSeq, pulseSample, hf]; rfl
  | dataPhase | ackData =>
    simp only [currentSeq, pulseSample, hf]
    split <;> rfl
  | single =>
    simp only [currentSeq, pulseSample, hf, reduceCtorEq, or_self, if_false, List.append_nil]
    split
    · exact linesReleased_singleSeq _ _ _
    · rfl
  | idle | start | address | ackAddr | stop | recSample => simp only [currentSeq, pulseSample, hf]; rfl

/-- Performing the next line step: if it is a sample, it finds the line released, and so do the steps after it. -/
theorem State.ReleasedAhead.perform (h : s.ReleasedAhead) (hn : nextLine s = some l) (hl : l ≠ .auxDir s.cfg.sdaBit) :
    (l = .sample → s.sdaOe = false) ∧
    linesReleased (performed l s).sdaOe ((currentSeq s).drop (s.phase + 1) ++ pulseSample s) = true := by
  obtain ⟨p, hp⟩ := performed_eq l s
  obtain ⟨hlt, hget⟩ := List.getElem?_eq_some_iff.mp hn
  unfold State.ReleasedAhead at h
  rw [List.drop_eq_getElem_cons hlt, hget] at h
  rw [hp]
  exact (samplesReleased_done (s := takeAck s) hl 0 _).mp h

/-! ### A primitive and a command -/

/-- A sub-sequence ends at phase 0 of the next one; REC_PULSE is entered from a recovery's sample only, with the direction
of the data line kept. -/
theorem SeqEnd.phase_recPulse (he : SeqEnd s t) :
    t.phase = 0 ∧ (t.fsm = .recPulse → (s.fsm = .recSample ∨ s.fsm = .recPulse) ∧ t.sdaOe = s.sdaOe) := by
  cases he with
  | byteAnswered => rcases countByte_cases s with ⟨-, h⟩ | ⟨-, h⟩ <;> rw [h] <;> exact ⟨rfl, nofun⟩
  | byteAcked => rcases countByte_cases (detectAck s) with ⟨-, h⟩ | ⟨-, h⟩ <;> rw [h] <;> exact ⟨rfl, nofun⟩
  | lineHeld hf => exact ⟨rfl, fun _ => ⟨.inl hf, rfl⟩⟩
  | pulseHeld hf => exact ⟨rfl, fun _ => ⟨.inr hf, rfl⟩⟩
  | started | addressBit | addressByte | addressOnly | addressAcked | bitSent | bitReceived | byteSent | byteReceived
  | byteNacked | stopped | lineFree | lineForced | pulseLast | single | wbyteLast | wbyteBit | rbyteBit =>
    exact ⟨rfl, nofun⟩

theorem PrimOutcome.releasedAhead (ho : PrimOutcome s t) (h : s.ReleasedAhead)
    (hl : nextLine s ≠ some (.auxDir s.cfg.sdaBit)) : t.ReleasedAhead := by
  cases ho with
  | lost => exact h
  | wait => exact h
  | fault => exact ReleasedAhead_start rfl nofun
  | @next l hn =>
    obtain ⟨-, hrest⟩ := h.perform hn (fun e => hl (e ▸ hn))
    rw [← currentSeq_performed s l, ← pulseSample_performed l s] at hrest
    exact hrest
  | @last l _ hn _ hge he =>
    obtain ⟨-, hrest⟩ := h.perform hn (fun e => hl (e ▸ hn))
    rw [List.drop_eq_nil_of_le hge, List.nil_append] at hrest
    obtain ⟨hp, hpulse⟩ := he.phase_recPulse
    refine ReleasedAhead_start hp fun hf => ?_
    obtain ⟨hrec, hoe⟩ := hpulse hf
    rw [performed_fsm] at hrec
    rw [pulseSample, if_pos hrec] at hrest
    rw [hoe]
    simpa [linesReleased, samplesReleased] using hrest

/-- From s to t the samples are taken with the line released, and the events that follow begin at the direction of t. -/
def Releases (s t : State) : Prop :=
  ∃ es, t.trace = s.trace ++ es ∧
    ∀ fs, samplesReleased t.sdaOe fs = true → samplesReleased s.sdaOe (es ++ fs) = true

theorem Releases_of_eq (hd : t.sdaOe = s.sdaOe) (ht : t.trace = s.trace) : Releases s t :=
  ⟨[], by simp [ht], fun _ h => hd ▸ h⟩

theorem Releases.trans {u : State} (h : Releases s t) (h' : Releases t u) : Releases s u := by
  obtain ⟨es, ht, hes⟩ := h
  obtain ⟨es', ht', hes'⟩ := h'
  refine ⟨es ++ es', by rw [ht', ht, List.append_assoc], fun fs hfs => ?_⟩
  rw [List.append_assoc]
  exact hes _ (hes' fs hfs)

theorem Releases_primStep (h : s.ReleasedAhead) (hl : nextLine s ≠ some (.auxDir s.cfg.sdaBit)) :
    Releases s (primStep s) := by
  rcases primStep_cases s with ⟨he, -⟩ | ⟨l, hn, ⟨-, hd⟩ | ⟨-, hw⟩ | ⟨-, w, hf⟩⟩
  · exact Releases_of_eq (by rw [he]) (by rw [he])
  · have hne : l ≠ .auxDir s.cfg.sdaBit := fun e => hl (e ▸ hn)
    obtain ⟨hs, -⟩ := h.perform hn hne
    obtain ⟨v, hv⟩ := perform_trace l (takeAck s)
    refine ⟨[.done l v], hd.trace.trans hv, fun fs hfs => ?_⟩
    rw [hd.lines.2.2] at hfs
    exact (samplesReleased_done (s := takeAck s) hne v fs).mpr ⟨hs, hfs⟩
  · exact Releases_of_eq (by rw [hw]; rfl) (by rw [hw]; rfl)
  · exact ⟨[.fault], by rw [hf]; rfl, fun fs hfs => by rw [hf] at hfs; exact hfs⟩

/-- AUXSET of the data line is no command that runs. -/
theorem nextLine_ne_auxDir_sda (hwf : i.wf s.cfg = true) (h : s.Running i) (hb : s.fsm ≠ .idle) :
    nextLine s ≠ some (.auxDir s.cfg.sdaBit) := by
  intro hn
  obtain ⟨b, hc⟩ := cur_of_nextLine_auxDir hn
  obtain rfl : i = .auxset s.cfg.sdaBit b := Option.some.inj ((h.cur hb).symm.trans hc)
  simp [Instr.wf, Config.isI2c] at hwf

/-- A run begins at phase 0, and not at a pulse of a recovery. -/
theorem ReleasedAhead_entry (s : State) (hw : i.wf s.cfg = true) : (entry s i).ReleasedAhead := by
  cases i with
  | xferR addr n =>
    have hn : n ≠ 0 := by simpa [Instr.wf] using hw
    rw [entry, if_neg hn]
    exact ReleasedAhead_start rfl nofun
  | auxset bit value =>
    have haux : ¬ s.cfg.isI2c bit = true := by simpa [Instr.wf] using hw
    rw [entry, if_neg haux]
    exact ReleasedAhead_start rfl nofun
  | start | stop | wbit | rbit | wbyte | rbyte | xferW | recover | txwr | rxrd => exact ReleasedAhead_start rfl nofun

/-- What a run of command i keeps: it is at a place of i, its steps ahead find the line released, and so did those since
state s. -/
structure ReleasedRun (s : State) (i : Instr) (u : State) : Prop where
  cfg : u.cfg = s.cfg
  running : u.Running i
  ahead : u.ReleasedAhead
  releases : Releases s u

theorem ReleasedRun_primStep {u : State} (hw : i.wf s.cfg = true) (h : ReleasedRun s i u) (hb : u.fsm ≠ .idle) :
    ReleasedRun s i (primStep u) := by
  have hn := nextLine_ne_auxDir_sda (h.cfg ▸ hw) h.running hb
  have ho := primStep_outcome u
  exact ⟨(primStep_keeps u).1.trans h.cfg, ho.running h.running, ho.releasedAhead h.ahead hn,
    h.releases.trans (Releases_primStep h.ahead hn)⟩

theorem Releases_exec (h : exec i s = .next t) : Releases s t := by
  rcases exec_cases h with rfl | ⟨hw, rfl⟩
  · exact Releases_of_eq rfl rfl
  · obtain ⟨hcfg, -, hdir, -⟩ := entry_keeps s i
    have hoe : (entry s i).sdaOe = s.sdaOe := by rw [State.sdaOe, hcfg, hdir]; rfl
    exact (advance_induction (P := ReleasedRun s i) (fun _ hu hb => ReleasedRun_primStep hw hu hb) _
      ⟨hcfg, Running_entry s hw, ReleasedAhead_entry s hw, Releases_of_eq hoe (entry_trace s i)⟩).releases

/-- Settles O47: every sub-sequence with a sample releases the line before it or, as a pulse of a recovery, follows one
that did; the trace keeps that order (`Releases_exec`). -/
theorem samplesAreTakenWithTheLineReleased : Obligations.SamplesAreTakenWithTheLineReleased := by
  unfold Obligations.SamplesAreTakenWithTheLineReleased
  intro s t i h
  obtain ⟨es, htr, hes⟩ := Releases_exec h
  exact ⟨es, htr, by simpa using hes [] rfl⟩

end Sys2Proof.Machine
end

section
/-! PROOFS. The command word (R90 to R95): which row a word selects, the command a row reads from a word, when a word
decodes, and the two round trips. -/

namespace Sys2Proof.Machine

/-! ### Masks -/

theorem fieldOP_and (v m : Word) : fieldOP (v &&& m) = fieldOP v &&& fieldOP m := BitVec.extractLsb'_and

theorem fieldD0_and (v m : Word) : fieldD0 (v &&& m) = (fieldD0 v && fieldD0 m) := by
  rw [fieldD0, fieldD, BitVec.extractLsb'_and, BitVec.getLsbD_and]
  rfl

/-- Two words that agree inside a mask and outside it are equal. -/
theorem eq_of_and_eq_of_and_not_eq {v w m : Word} (hin : v &&& m = w &&& m) (hout : v &&& ~~~m = w &&& ~~~m) :
    v = w := by
  have parts (x : Word) : (x &&& m) ||| (x &&& ~~~m) = x := by
    rw [← BitVec.and_or_distrib_left, BitVec.or_not_self, BitVec.and_allOnes]
  rw [← parts v, hin, hout, parts]

/-! ### Checks 1 and 2 of R95: the row of a word -/

/-- OP and, for OP 0x07, D[0] of a word name the row (R95 checks 1 and 2). -/
def NamesRow (w : Word) (r : Opcode) : Prop :=
  fieldOP r.pattern = fieldOP w ∧ (fieldOP w = 0x07 → (r = .xferR ↔ fieldD0 w = true))

variable {c : Config} {w : Word} {r : Opcode} {i : Instr}

/-- The row the decoder selects is the one OP and D[0] name: each literal of the opcode map is the OP of its row. -/
theorem selectRow_eq_some_iff : selectRow w = some r ↔ NamesRow w r := by
  constructor
  · intro h
    unfold selectRow at h
    split at h
    case h_7 hop =>
      have h7 : fieldOP w = 0x07 := BitVec.eq_of_toNat_eq hop
      split at h
      next hd => cases h; exact ⟨h7.symm, fun _ => by simp [hd]⟩
      next hd => cases h; exact ⟨h7.symm, fun _ => by simp [hd]⟩
    case h_12 => cases h
    all_goals
      next hop =>
      cases h
      exact ⟨BitVec.eq_of_toNat_eq hop.symm, fun h7 => absurd (hop.symm.trans (congrArg _ h7)) (by decide)⟩
  · rintro ⟨hop, hd⟩
    cases r with
    | xferW =>
      have hd : ¬ fieldD0 w = true := fun h => nomatch (hd hop.symm).mpr h
      simp only [selectRow, ← hop, hd]; rfl
    | xferR =>
      have hd : fieldD0 w = true := (hd hop.symm).mp rfl
      simp only [selectRow, ← hop, hd]; rfl
    | start | stop | wbit | rbit | wbyte | rbyte | recover | auxset | txwr | rxrd =>
      simp only [selectRow, ← hop]; rfl

/-- OP outside 0x01 to 0x0B selects no row (R92). -/
theorem selectRow_eq_none_iff : selectRow w = none ↔ fieldOP w = 0x00 ∨ 0x0B < (fieldOP w).toNat := by
  have hzero : fieldOP w = 0x00 ↔ (fieldOP w).toNat = 0 := BitVec.toNat_inj.symm
  rw [hzero]
  unfold selectRow
  split
  case h_7 hop => split <;> simp [hop]
  case h_12 =>
    simp only [true_iff]
    grind
  all_goals next hop => simp [hop]

/-- OP is in every mask (R92). -/
theorem fieldOP_mask (r : Opcode) : fieldOP r.mask = BitVec.allOnes 8 := by cases r <;> rfl

/-- D[0] is in the masks of the two rows of OP 0x07 and tells them apart (R92). -/
theorem fieldD0_of_op_transfer (r : Opcode) : fieldOP r.pattern = 0x07 →
    fieldD0 r.mask = true ∧ (r = .xferR ↔ fieldD0 r.pattern = true) := by
  cases r <;> decide

/-- A word that matches a row selects it (R92). -/
theorem selectRow_of_match (h : w &&& r.mask = r.pattern) : selectRow w = some r := by
  have hop : fieldOP r.pattern = fieldOP w := by rw [← h, fieldOP_and, fieldOP_mask, BitVec.and_allOnes]
  refine selectRow_eq_some_iff.mpr ⟨hop, fun h7 => ?_⟩
  obtain ⟨hmask, hrow⟩ := fieldD0_of_op_transfer r (hop.trans h7)
  rw [hrow, ← h, fieldD0_and, hmask, Bool.and_true]

/-! ### Checks 3 and 4 of R95: the command of a row -/

/-- The command of a row with the operands that stand in a word (R91). -/
def rowInstr (w : Word) : Opcode → Instr
  | .start => .start
  | .stop => .stop
  | .wbit => .wbit (fieldD0 w)
  | .rbit => .rbit
  | .wbyte => .wbyte (fieldD w)
  | .rbyte => .rbyte (fieldD0 w)
  | .xferW => .xferW (fieldAddr w) (fieldN w)
  | .xferR => .xferR (fieldAddr w) (fieldN w)
  | .recover => .recover (fieldD0 w)
  | .auxset => .auxset (fieldBit w) (fieldD0 w)
  | .txwr => .txwr (fieldN w) (fieldD w)
  | .rxrd => .rxrd (fieldN w)

@[simp] theorem rowInstr_row (w : Word) (r : Opcode) : (rowInstr w r).row = r := by cases r <;> rfl

/-- A row gives its command exactly when the command is well-formed (R92, R95 check 4). -/
theorem buildRow_eq (c : Config) (w : Word) (r : Opcode) :
    buildRow c w r = if (rowInstr w r).wf c then .ok (rowInstr w r)
      else .error (if r = .xferR then .readLength else .auxBit) := by
  cases r with
  | xferR => by_cases hn : fieldN w = 0 <;> simp [buildRow, rowInstr, Instr.wf, hn]
  | auxset => cases hb : c.isI2c (fieldBit w) <;> simp [buildRow, rowInstr, Instr.wf, hb]
  | start | stop | wbit | rbit | wbyte | rbyte | xferW | recover | txwr | rxrd => rfl

/-- The extra condition of a row is that its command is well-formed (R92). -/
theorem rowSelects_iff : rowSelects c w r ↔ w &&& r.mask = r.pattern ∧ (rowInstr w r).wf c = true := by
  cases r <;> simp [rowSelects, rowInstr, Instr.wf, Config.isI2c]

/-! ### The decoder -/

/-- A word that selects no row fails check 1 of R95. -/
theorem decode_of_no_row (h : selectRow w = none) : decode c w = .error .opcode := by
  rw [decode, h]

/-- A word with a reserved bit that is not 0 fails check 3 of R95. -/
theorem decode_of_no_match (hr : selectRow w = some r) (h : w &&& r.mask ≠ r.pattern) :
    decode c w = .error .reserved := by
  simp only [decode, hr, if_neg h]

/-- A word that matches a row gets the row's verdict (R95 check 4). -/
theorem decode_of_match (h : w &&& r.mask = r.pattern) : decode c w = buildRow c w r := by
  simp only [decode, selectRow_of_match h, h, if_true]

/-- A word decodes to a command exactly when it selects the command's row and has its operands (R92, R94). -/
theorem decode_eq_ok_iff : decode c w = .ok i ↔ rowSelects c w i.row ∧ rowInstr w i.row = i := by
  rw [rowSelects_iff]
  constructor
  · intro h
    cases hr : selectRow w with
    | none => rw [decode_of_no_row hr] at h; cases h
    | some r =>
      by_cases hmatch : w &&& r.mask = r.pattern
      · rw [decode_of_match hmatch, buildRow_eq] at h
        split at h
        · next hwf =>
          cases h
          rw [rowInstr_row]
          exact ⟨⟨hmatch, hwf⟩, rfl⟩
        · cases h
      · rw [decode_of_no_match hr hmatch] at h; cases h
  · rintro ⟨⟨hmatch, hwf⟩, hi⟩
    rw [decode_of_match hmatch, buildRow_eq, if_pos hwf, hi]

/-- A word decodes to a command of a row exactly when it selects the row (R92). -/
theorem decode_row_iff : (∃ i, decode c w = .ok i ∧ i.row = r) ↔ rowSelects c w r := by
  constructor
  · rintro ⟨i, hd, rfl⟩
    exact (decode_eq_ok_iff.mp hd).1
  · intro h
    exact ⟨rowInstr w r, decode_eq_ok_iff.mpr (by rw [rowInstr_row]; exact ⟨h, rfl⟩), rowInstr_row w r⟩

/-! ### The encoder -/

/-- The word of a command matches its row (R91). -/
theorem encode_matches (i : Instr) : encode i &&& i.row.mask = i.row.pattern := by
  cases i with
  | start => exact Laws.Encoding.start
  | stop => exact Laws.Encoding.stop
  | wbit b => exact Laws.Encoding.wbit b
  | rbit => exact Laws.Encoding.rbit
  | wbyte byte => exact Laws.Encoding.wbyte byte
  | rbyte sendAck => exact Laws.Encoding.rbyte sendAck
  | xferW addr n => exact Laws.Encoding.xferW addr n
  | xferR addr n => exact Laws.Encoding.xferR addr n
  | recover force => exact Laws.Encoding.recover force
  | auxset bit value => exact Laws.Encoding.auxset bit value
  | txwr idx byte => exact Laws.Encoding.txwr idx byte
  | rxrd idx => exact Laws.Encoding.rxrd idx

theorem fieldD0_packWord (op n a : Byte) (b : Bool) : fieldD0 (packWord op n a (bitByte b)) = b := by
  rw [fieldD0, fieldD_packWord, bitByte_bit]

theorem fieldAddr_packWord (op n d : Byte) (addr : BitVec 7) :
    fieldAddr (packWord op n (addr.setWidth 8) d) = addr := by
  rw [fieldAddr, fieldA_packWord, (addr_field addr).1]

theorem fieldBit_packWord (op n d : Byte) (bit : Fin 8) :
    fieldBit (packWord op n (BitVec.ofNat 8 bit.val) d) = bit := by
  rw [fieldBit, fieldA_packWord, (bit_field bit).1]

/-- The operands stand in the command's word (R91). -/
theorem rowInstr_encode (i : Instr) : rowInstr (encode i) i.row = i := by
  cases i <;> simp only [encode, Instr.row, rowInstr, fieldN_packWord, fieldD_packWord, fieldD0_packWord,
    fieldAddr_packWord, fieldBit_packWord]

/-- Under a mask of 0 any two fields agree. -/
theorem and_zero_eq (x y : Byte) : x &&& 0 = y &&& 0 := BitVec.and_zero.trans BitVec.and_zero.symm

/-- The bits outside a mask are compared field by field; OP is never one of them. -/
theorem packWord_unmasked_eq {n a d mn ma md : Byte} (op : Byte) {m : Word} (hm : ~~~m = packWord 0 mn ma md)
    (hn : n &&& mn = fieldN w &&& mn) (ha : a &&& ma = fieldA w &&& ma) (hd : d &&& md = fieldD w &&& md) :
    packWord op n a d &&& ~~~m = w &&& ~~~m := by
  conv_rhs => rw [← packWord_fields w]
  rw [hm, packWord_and, packWord_and, hn, ha, hd, and_zero_eq op (fieldOP w)]

theorem bitByte_unmasked (d : Byte) : bitByte (d.getLsbD 0) &&& 1 = d &&& 1 := by
  revert d; decide

theorem addr_unmasked (a : Byte) : (a.extractLsb' 0 7).setWidth 8 &&& 0x7F = a &&& 0x7F := by
  revert a; decide

theorem bit_unmasked (a : Byte) : BitVec.ofNat 8 (a.extractLsb' 0 3).toFin.val &&& 0x07 = a &&& 0x07 := by
  revert a; decide

/-- Every bit outside a row's mask is an operand bit: the word of the row's command has it again (R91). -/
theorem encode_rowInstr_unmasked (w : Word) (r : Opcode) : encode (rowInstr w r) &&& ~~~r.mask = w &&& ~~~r.mask := by
  cases r with
  | start | stop | rbit =>
    exact packWord_unmasked_eq _ (mn := 0) (ma := 0) (md := 0) rfl (and_zero_eq _ _) (and_zero_eq _ _)
      (and_zero_eq _ _)
  | wbit | rbyte | recover =>
    exact packWord_unmasked_eq _ (mn := 0) (ma := 0) (md := 1) rfl (and_zero_eq _ _) (and_zero_eq _ _)
      (bitByte_unmasked _)
  | wbyte => exact packWord_unmasked_eq _ (mn := 0) (ma := 0) (md := 0xFF) rfl (and_zero_eq _ _) (and_zero_eq _ _) rfl
  | xferW | xferR =>
    exact packWord_unmasked_eq _ (mn := 0xFF) (ma := 0x7F) (md := 0) rfl rfl (addr_unmasked _) (and_zero_eq _ _)
  | auxset =>
    exact packWord_unmasked_eq _ (mn := 0) (ma := 0x07) (md := 1) rfl (and_zero_eq _ _) (bit_unmasked _)
      (bitByte_unmasked _)
  | txwr => exact packWord_unmasked_eq _ (mn := 0xFF) (ma := 0) (md := 0xFF) rfl rfl (and_zero_eq _ _) rfl
  | rxrd => exact packWord_unmasked_eq _ (mn := 0xFF) (ma := 0) (md := 0) rfl rfl (and_zero_eq _ _) (and_zero_eq _ _)

/-! ### The round trips and the order of the checks -/

/-- Decoding undoes encoding (R90 to R94). -/
theorem decode_encode (h : i.wf c = true) : decode c (encode i) = .ok i := by
  have hrow := rowInstr_encode i
  exact decode_eq_ok_iff.mpr ⟨rowSelects_iff.mpr ⟨encode_matches i, hrow.symm ▸ h⟩, hrow⟩

/-- Settles O1: `decode_encode`. -/
theorem decodeOfEncodeIsTheCommand : Obligations.DecodeOfEncodeIsTheCommand := by
  unfold Obligations.DecodeOfEncodeIsTheCommand
  exact fun _ _ => decode_encode

/-- Settles O2: the word and the encoding agree inside the row's mask, where both match the row, and outside it, where
both hold the operands. -/
theorem encodeOfDecodeIsTheWord : Obligations.EncodeOfDecodeIsTheWord := by
  unfold Obligations.EncodeOfDecodeIsTheWord
  intro c w i h
  obtain ⟨hsel, hi⟩ := decode_eq_ok_iff.mp h
  obtain ⟨hmatch, hwf⟩ := rowSelects_iff.mp hsel
  rw [hi] at hwf
  have hout := encode_rowInstr_unmasked w i.row
  rw [hi] at hout
  exact ⟨eq_of_and_eq_of_and_not_eq ((encode_matches i).trans hmatch.symm) hout, hwf⟩

/-- Settles O3: a word that matches a row selects it (`selectRow_of_match`), and decodes exactly when it also meets the
extra condition (`decode_row_iff`). -/
theorem opcodeMapSelectsExactlyOneRow : Obligations.OpcodeMapSelectsExactlyOneRow := by
  unfold Obligations.OpcodeMapSelectsExactlyOneRow
  refine ⟨rfl, fun c w => ⟨?_, ?_, fun r => decode_row_iff⟩⟩
  · intro hop r hsel
    have hnone := selectRow_eq_none_iff.mpr hop
    rw [selectRow_of_match hsel.1] at hnone
    cases hnone
  · intro r q hr hq
    exact Option.some.inj ((selectRow_of_match hr).symm.trans (selectRow_of_match hq))

/-- Settles O4: the row is the one `selectRow` answers, and the verdicts are the branches of the decoder. -/
theorem decoderChecksInOrder : Obligations.DecoderChecksInOrder := by
  unfold Obligations.DecoderChecksInOrder
  intro c w
  refine ⟨fun hop => decode_of_no_row (selectRow_eq_none_iff.mpr hop), fun hlo hhi => ?_⟩
  cases hr : selectRow w with
  | none =>
    rcases selectRow_eq_none_iff.mp hr with hzero | hbig
    · rw [hzero] at hlo
      exact absurd hlo (by decide)
    · omega
  | some r =>
    obtain ⟨hop, hd0⟩ := selectRow_eq_some_iff.mp hr
    refine ⟨r, hop, hd0, decode_of_no_match hr, fun hmatch => ⟨?_, ?_, ?_⟩⟩
    · rintro ⟨rfl, hn⟩
      rw [decode_of_match hmatch, buildRow, if_pos hn]
    · rintro ⟨rfl, hb⟩
      rw [decode_of_match hmatch, buildRow, if_pos hb]
    · intro hlen haux
      refine decode_row_iff.mpr ⟨hmatch, fun hx hn => hlen ⟨hx, hn⟩, fun hx => ?_⟩
      simpa [Config.isI2c, hx] using haux

/-! ### The address byte and the worked encodings -/

/-- Bit 0 of the address byte is the read bit; the address stands above it (R93). -/
theorem getLsbD_addressByte (a : BitVec 7) (rd : Bool) (k : Nat) :
    (addressByte a rd).getLsbD k = if k = 0 then rd else a.getLsbD (k - 1) := by
  rw [addressByte, BitVec.getLsbD_append]
  cases k <;> simp

/-- Settles O5: the byte's value (`addressByte_toNat`) and its bits (`getLsbD_addressByte`). -/
theorem addressByteIsAddressThenReadBit : Obligations.AddressByteIsAddressThenReadBit := by
  unfold Obligations.AddressByteIsAddressThenReadBit
  refine ⟨fun a rd => ⟨(addressByte_toNat a rd).trans (by cases rd <;> rfl), ?_⟩, by decide, by decide⟩
  simp only [bitsOf, testBit, getLsbD_addressByte]
  rfl

/-- Settles O6: the legal words are the encodings of their commands (`decode_encode`); the illegal ones fail a check
that reads no configuration. -/
theorem workedEncodingsDecode : Obligations.WorkedEncodingsDecode := by
  unfold Obligations.WorkedEncodingsDecode
  intro c h4
  have haux : (Instr.auxset 4 true).wf c = true := by rw [Instr.wf, h4]; rfl
  have legal (i : Instr) (hwf : i.wf c = true) : decode c (encode i) = .ok i := decode_encode hwf
  exact ⟨legal .start rfl, legal .stop rfl, legal (.wbit true) rfl, legal .rbit rfl, legal (.wbyte 0x92) rfl,
    legal (.rbyte false) rfl, legal (.xferW 0x29 1) rfl, legal (.xferR 0x29 1) rfl, legal (.recover true) rfl,
    legal (.auxset 4 true) haux, legal (.txwr 0 0x92) rfl, legal (.rxrd 0) rfl, rfl, rfl, rfl, rfl⟩

end Sys2Proof.Machine
end

section
/-! PROOFS. What line steps that are all done make of the line state (R23), of SBIT (R34) and of the wire (R12), and how
a command of one sub-sequence ends (R120, R204). -/

namespace Sys2Proof.Machine

variable {s t u : State} {i : Instr} {l : Line} {L : List Line}

/-! ### The line state and SBIT -/

/-- The primitives of AUXSET (R170). -/
def Line.isAux : Line → Bool
  | .auxOut _ _ => true
  | .auxDir _ => true
  | .scl _ => false
  | .sda _ => false
  | .oe _ => false
  | .sample => false

/-- The line state (SCL, SDA, SDA_OE) after a line step of R67. -/
def Line.drive : Bool × Bool × Bool → Line → Bool × Bool × Bool
  | (_, d, o), .scl b => (b, d, o)
  | (c, _, o), .sda b => (c, b, o)
  | (c, d, _), .oe b => (c, d, b)
  | x, .sample => x
  | x, .auxOut _ _ => x
  | x, .auxDir _ => x

theorem lineState_perform (hl : s.cfg.legal = true) (ha : l.isAux = false) :
    (perform l s).lineState = l.drive s.lineState := by
  have hne : s.cfg.sclBit ≠ s.cfg.sdaBit := by simpa [Config.legal] using hl
  cases l with
  | scl | sda | oe => simp [State.lineState, State.scl, State.sda, State.sdaOe, Line.drive, hne, hne.symm]
  | sample => rfl
  | auxOut | auxDir => cases ha

theorem lineState_performAll (hl : u.cfg.legal = true) (ha : L.all (!·.isAux) = true) :
    (performAll L u).lineState = L.foldl Line.drive u.lineState := by
  induction L generalizing u with
  | nil => rfl
  | cons l ls ih =>
    simp only [List.all_cons, Bool.and_eq_true, Bool.not_eq_true'] at ha
    rw [performAll, ih (by simpa using hl) ha.2, lineState_perform (by simpa using hl) ha.1]
    rfl

/-- A sample takes its value from those to come, another line step none. -/
theorem perform_takeAck_inAt (l : Line) (u : State) (k : Nat) :
    (perform l (takeAck u)).world.inAt k = u.world.inAt (if l = .sample then k + 1 else k) := by
  rw [perform_inAt]
  split <;> simp

theorem perform_takeAck_sampleAt (c : Config) (l : Line) (u : State) (k : Nat) :
    (perform l (takeAck u)).world.sampleAt c k = u.world.sampleAt c (if l = .sample then k + 1 else k) :=
  congrArg (testBit · c.sdaBit) (perform_takeAck_inAt l u k)

/-- SBIT after line steps is the last of their samples; without one it is kept (R34). -/
theorem performAll_sbit (L : List Line) (u : State) :
    (performAll L u).sbit =
      if L.count .sample = 0 then u.sbit else u.world.sampleAt u.cfg (L.count .sample - 1) := by
  induction L generalizing u with
  | nil => rfl
  | cons l ls ih =>
    rw [performAll, ih, perform_sbit, perform_takeAck_sampleAt]
    by_cases hl : l = .sample
    · subst hl
      cases hk : ls.count .sample with
      | zero => simp [hk, World.sampleAt, World.inAt]
      | succ k => simp [hk]
    · simp [hl]

/-! ### The wire -/

/-- A sample's event carries the value read (R11). -/
theorem perform_trace_sample (l : Line) (s : State) :
    ∃ v, (perform l s).trace = s.trace ++ [.done l v] ∧ (l = .sample → v = s.world.portIn) := by
  cases l with
  | sample => exact ⟨_, rfl, fun _ => rfl⟩
  | scl | sda | oe | auxOut | auxDir => exact ⟨_, rfl, nofun⟩

/-- The decoder reads no value but a sample's (R12). -/
theorem readEvent_done (c : Config) (w : WireView) {v v' : Byte} (h : l = .sample → v = v') :
    readEvent c w (.done l v) = readEvent c w (.done l v') := by
  cases l with
  | sample => rw [h rfl]
  | scl b => cases b <;> rfl
  | sda | oe | auxOut | auxDir => rfl

/-- The events of line steps that are all done, as far as the symbol decoder reads them: a sample's value is the next of
`f`, every other value is left 0 (R12). -/
def lineEvents : (Nat → Byte) → List Line → List Event
  | _, [] => []
  | f, l :: ls =>
    .done l (if l = .sample then f 0 else 0) :: lineEvents (fun k => f (if l = .sample then k + 1 else k)) ls

/-- On the wire line steps that are all done are their `lineEvents` with the samples to come (R11, R12). -/
theorem readWire_performAll (L : List Line) (u : State) :
    ∃ es, (performAll L u).trace = u.trace ++ es ∧ es.map Event.line = L.map some ∧
      ∀ c w, readWire c w es = readWire c w (lineEvents u.world.inAt L) := by
  induction L generalizing u with
  | nil => exact ⟨[], by simp [performAll], rfl, fun _ _ => rfl⟩
  | cons l ls ih =>
    obtain ⟨v, hv, hs⟩ := perform_trace_sample l (takeAck u)
    obtain ⟨es, htr, hline, hread⟩ := ih (perform l (takeAck u))
    have hin : (perform l (takeAck u)).world.inAt = fun k => u.world.inAt (if l = .sample then k + 1 else k) :=
      funext (perform_takeAck_inAt l u)
    refine ⟨.done l v :: es, by simp [performAll, htr, hv], by simp [Event.line, hline], fun c w => ?_⟩
    have hev : readEvent c w (.done l v) = readEvent c w (.done l (if l = .sample then u.world.inAt 0 else 0)) :=
      readEvent_done c w fun hl => by simp [hs hl, hl, World.inAt]
    rw [lineEvents, readWire, readWire, hev, hread, hin]

/-- START lowers SDA while SCL is high, and raises it there first only from the line state (1, 0, 1) (R121). -/
theorem symbols_startSeq (c : Config) (x : Bool × Bool × Bool) (f : Nat → Byte) :
    symbols c x (lineEvents f startSeq) = if x = (true, false, true) then [.P, .S] else [.S] := by
  obtain ⟨_ | _, _ | _, _ | _⟩ := x <;> rfl

/-- STOP lowers SDA with SCL low and raises it with SCL high (R122). -/
theorem symbols_stopSeq (c : Config) (x : Bool × Bool × Bool) (f : Nat → Byte) :
    symbols c x (lineEvents f stopSeq) = [.P] := by
  obtain ⟨_ | _, _ | _, _ | _⟩ := x <;> rfl

/-- WBIT makes its bit's clock pulse only when it finds the clock low (R123). -/
theorem symbols_wbitSeq (c : Config) (x : Bool × Bool × Bool) (f : Nat → Byte) (b : Bool) :
    symbols c x (lineEvents f (wbitSeq b)) =
      if x.1 = false then [.M b] else if x.2.2 = true ∧ x.2.1 ≠ b then [if b then .P else .S] else [] := by
  obtain ⟨_ | _, _ | _, _ | _⟩ := x <;> cases b <;> rfl

/-- RBIT's sample lies in the clock pulse it makes, if it finds the clock low (R124). -/
theorem symbols_rbitSeq (c : Config) (x : Bool × Bool × Bool) (f : Nat → Byte) :
    symbols c x (lineEvents f rbitSeq) =
      [if x.1 then .Q (testBit (f 0) c.sdaBit) else .Zs (testBit (f 0) c.sdaBit)] := by
  obtain ⟨_ | _, _ | _, _ | _⟩ := x <;> rfl

/-! ### A command of one sub-sequence -/

/-- The commands that run in state SINGLE are entered there at phase 0 (R32, R40). -/
theorem entry_single (hi : i.isSingle = true) (hw : i.wf s.cfg = true) :
    (entry s i).fsm = .single ∧ (entry s i).phase = 0 ∧ (entry s i).cur = some i := by
  cases i with
  | auxset bit value =>
    have haux : ¬ s.cfg.isI2c bit = true := by simpa [Instr.wf] using hw
    rw [entry, if_neg haux]
    exact ⟨rfl, rfl, rfl⟩
  | start | stop | wbit | rbit | wbyte | rbyte => exact ⟨rfl, rfl, rfl⟩
  | xferW | xferR | recover | txwr | rxrd => cases hi

/-- CNT of their responses is 0 (R97, R204). -/
theorem countOf_single (hi : i.isSingle = true) (hc : s.cur = some i) : countOf s = 0 := by
  cases i with
  | start | stop | wbit | rbit | wbyte | rbyte | auxset => simp [countOf, hc]
  | xferW | xferR | recover | txwr | rxrd => cases hi

theorem eventsBetween_of_trace {es : List Event} (h : t.trace = s.trace ++ es) : eventsBetween s t = es := by
  rw [eventsBetween, h, List.drop_left]

theorem busTimeout_trace (l : Line) (s : State) : (busTimeout l s).trace = s.trace ++ [.fault] := by
  obtain ⟨w, hw, -⟩ := performFault_eq l s
  rw [busTimeout, respond_trace, hw]

/-- The state in which a command of one sub-sequence L ends when every primitive is done. -/
def endOfSeq (L : List Line) (s : State) (i : Instr) : State :=
  finishSeq (setPhase (L.length - 1) (performAll L (entry s i)))

/-- Its events are those of the line steps. -/
theorem eventsBetween_endOfSeq (L : List Line) (s : State) (i : Instr) :
    ∃ es, eventsBetween s (endOfSeq L s i) = es ∧ es.map Event.line = L.map some ∧
      ∀ c w, readWire c w es = readWire c w (lineEvents s.world.inAt L) := by
  obtain ⟨-, hworld, -⟩ := entry_keeps s i
  obtain ⟨es, htr, hline, hread⟩ := readWire_performAll L (entry s i)
  rw [entry_trace] at htr
  rw [hworld] at hread
  exact ⟨es, eventsBetween_of_trace ((finishSeq_same _).trace.trans htr), hline, hread⟩

section
variable (hs : s.fsm = .idle) (hi : i.isSingle = true) (hw : i.wf s.cfg = true) (hL : currentSeq (entry s i) = L)
  (hlen : L.length ≤ Config.maxPrimitives)
include hs hi hw hL hlen

theorem exec_single_done (hd : s.world.AllDone L.length) (hend : (endOfSeq L s i).fsm = .idle) :
    exec i s = .next (endOfSeq L s i) := by
  obtain ⟨hf, hp, hc⟩ := entry_single hi hw
  have hne : L ≠ [] := List.ne_nil_of_length_pos (hL ▸ singleSeq_pos i hi hf hc)
  obtain ⟨k, hk⟩ := Nat.exists_eq_add_of_le hlen
  rw [exec_eq_advance_entry i hs, hk, advance_seq k hL hp hne (by simp [hf]) (by simp [hf])
    (by rwa [(entry_keeps s i).2.1])]
  exact congrArg _ (advance_idle hend k)

/-- A fault at the k-th primitive: the line steps before it, no STOP, {BUS_TIMEOUT, 0, 0, 0} (R204). -/
theorem exec_single_fault {k : Nat} (hk : k < L.length) (hd : s.world.AllDone k) (hx : s.world.ackAt k = .fault) :
    ∃ t, exec i s = .next t ∧ linesBetween s t = (L.take k).map some ++ [none] ∧ t.fsm = .idle ∧
      t.rsp = some 0x03000000 ∧ t.err = 0x03 := by
  obtain ⟨hf, hp, hc⟩ := entry_single hi hw
  obtain ⟨-, hworld, -⟩ := entry_keeps s i
  obtain ⟨m, hm⟩ := Nat.exists_eq_add_of_lt (Nat.lt_of_lt_of_le hk hlen)
  have hrun := advance_fault k m hL hp (List.getElem?_eq_getElem hk) (by simp [hf]) (by simp [hf]) (hworld ▸ hd)
    (hworld ▸ hx)
  refine ⟨_, (exec_eq_advance_entry i hs).trans (congrArg _ ((congrArg (advance · _) hm).trans hrun)), ?_, rfl, ?_, rfl⟩
  · obtain ⟨es, htr, hline⟩ := performAll_trace (L.take k) (entry s i)
    rw [linesBetween, eventsBetween_of_trace (es := es ++ [.fault]) (by simp [busTimeout_trace, htr]), List.map_append,
      hline]
    rfl
  · rw [busTimeout, respond_rsp, countOf_single hi (by simpa using hc)]
    rfl

end

end Sys2Proof.Machine
end

section
/-! PROOFS. The line commands START, STOP, WBIT and RBIT (R121 to R124): what they perform, and their frame. -/

namespace Sys2Proof.Machine

variable {s t u : State} {i : Instr} {l : Line} {L : List Line}

/-! ### Commands of one sub-sequence with one response -/

/-- START, STOP, WBIT and RBIT (R120). -/
def IsLineCommand (i : Instr) : Prop := i = .start ∨ i = .stop ∨ (∃ b, i = .wbit b) ∨ i = .rbit

theorem IsLineCommand.isSingle (hi : IsLineCommand i) : i.isSingle = true := by
  rcases hi with rfl | rfl | ⟨b, rfl⟩ | rfl <;> rfl

theorem IsLineCommand.isAuxset (hi : IsLineCommand i) : i.isAuxset = false := by
  rcases hi with rfl | rfl | ⟨b, rfl⟩ | rfl <;> rfl

theorem IsLineCommand.wf (hi : IsLineCommand i) (c : Config) : i.wf c = true := by
  rcases hi with rfl | rfl | ⟨b, rfl⟩ | rfl <;> rfl

theorem entry_line (s : State) (hi : IsLineCommand i) : entry s i = accept i .single s := by
  rcases hi with rfl | rfl | ⟨b, rfl⟩ | rfl <;> rfl

theorem exec_line (s : State) (hi : IsLineCommand i) : exec i s = runCommand (accept i .single s) := by
  rcases hi with rfl | rfl | ⟨b, rfl⟩ | rfl <;> rfl

/-- Its sub-sequence is the same in every state: at most six line steps of R67, and no sample but RBIT's. -/
theorem singleSeq_line (s u : State) (hi : IsLineCommand i) :
    singleSeq u i = singleSeq s i ∧ (singleSeq s i).length ≤ 6 ∧ (singleSeq s i).all (!·.isAux) = true ∧
      (i ≠ .rbit → .sample ∉ singleSeq s i) := by
  rcases hi with rfl | rfl | ⟨b, rfl⟩ | rfl
  · exact ⟨rfl, show 5 ≤ 6 by decide, rfl, fun _ => by simp [singleSeq, startSeq]⟩
  · exact ⟨rfl, show 6 ≤ 6 by decide, rfl, fun _ => by simp [singleSeq, stopSeq]⟩
  · exact ⟨rfl, show 4 ≤ 6 by decide, rfl, fun _ => by simp [singleSeq, wbitSeq]⟩
  · exact ⟨rfl, show 4 ≤ 6 by decide, rfl, fun h => absurd rfl h⟩

theorem currentSeq_line (s : State) (hf : u.fsm = .single) (hc : u.cur = some i) (hi : IsLineCommand i) :
    currentSeq u = singleSeq s i := by
  simp only [currentSeq, hf, hc]
  exact (singleSeq_line s u hi).1

/-- VAL of a line command's response, by SBIT: the sample for RBIT, 0 for the others (R97). -/
def lineVal : Instr → Bool → Byte
  | .rbit, b => zextBit b
  | _, _ => 0

/-- How a line command ends when all its primitives L are done: the line state they drive, SBIT the sample if they take
one, ACKF kept, OK with VAL[0] the sample for RBIT (R97, R121 to R124). -/
structure LineEnd (i : Instr) (L : List Line) (s t : State) : Prop where
  lineState : t.lineState = L.foldl Line.drive s.lineState
  sbit : t.sbit = if L.count .sample = 0 then s.sbit else s.world.sampleAt s.cfg (L.count .sample - 1)
  ackf : t.ackf = s.ackf
  err : t.err = 0x00
  rsp : t.rsp = some (response .ok 0 (lineVal i t.sbit))
  symbols : symbols s.cfg s.lineState (eventsBetween s t) = symbols s.cfg s.lineState (lineEvents s.world.inAt L)

theorem LineEnd.rsp_zero (h : LineEnd i L s t) (hv : ∀ b, lineVal i b = 0) : t.rsp = some 0x00000000 := by
  rw [h.rsp, hv]
  rfl

/-- The end of a line command's one sub-sequence is its response. -/
theorem finishSeq_line (hf : u.fsm = .single) (hc : u.cur = some i) (hi : IsLineCommand i) :
    finishSeq u = respond .ok 0 (lineVal i u.sbit) u := by
  simp only [finishSeq, hf, hc]
  rcases hi with rfl | rfl | ⟨b, rfl⟩ | rfl <;> rfl

theorem endOfSeq_line (hi : IsLineCommand i) (haux : L.all (!·.isAux) = true) (hl : s.cfg.legal = true) :
    (endOfSeq L s i).fsm = .idle ∧ LineEnd i L s (endOfSeq L s i) := by
  obtain ⟨es, hes, -, hread⟩ := eventsBetween_endOfSeq L s i
  have hend : endOfSeq L s i =
      respond .ok 0 (lineVal i (performAll L (accept i .single s)).sbit)
        (setPhase (L.length - 1) (performAll L (accept i .single s))) := by
    rw [endOfSeq, entry_line s hi]
    exact finishSeq_line (by simp) (by simp) hi
  have hsym : symbols s.cfg s.lineState (eventsBetween s (endOfSeq L s i)) =
      symbols s.cfg s.lineState (lineEvents s.world.inAt L) := by rw [hes]; exact hread _ _
  rw [hend] at hsym ⊢
  refine ⟨rfl, lineState_performAll (u := accept i .single s) hl haux, performAll_sbit L _, ?_, rfl, rfl, hsym⟩
  simp

/-! ### What they perform -/

/-- What a line command performs, for any claim P that its end entails. -/
theorem line_performs {P : State → Prop} (hs : s.Ready) (hi : IsLineCommand i)
    (hP : ∀ t, LineEnd i (singleSeq s i) s t → P t) : PerformsLines i (singleSeq s i) s P := by
  have hsingle := hi.isSingle
  have hw := hi.wf s.cfg
  obtain ⟨-, hlen, haux, -⟩ := singleSeq_line s s hi
  obtain ⟨hf, -, hc⟩ := entry_single hsingle hw
  have hL := currentSeq_line s hf hc hi
  have hmax : (singleSeq s i).length ≤ Config.maxPrimitives := hlen.trans (by decide)
  refine ⟨fun hd => ?_, fun k hk hd hx => exec_single_fault hs.idle hsingle hw hL hmax hk hd hx⟩
  obtain ⟨hidle, hend⟩ := endOfSeq_line hi haux hs.legal
  obtain ⟨es, hes, hline, -⟩ := eventsBetween_endOfSeq (singleSeq s i) s i
  exact ⟨_, exec_single_done hs.idle hsingle hw hL hmax hd hidle, by rw [linesBetween, hes, hline], hidle, hP _ hend⟩

/-- Settles O15: START ends as `LineEnd` says, with the symbols of `symbols_startSeq`. -/
theorem startMakesTheStartCondition : Obligations.StartMakesTheStartCondition := by
  unfold Obligations.StartMakesTheStartCondition
  intro s hs
  refine line_performs hs (.inl rfl) fun t h => ?_
  exact ⟨h.lineState, h.rsp_zero fun _ => rfl, h.err, h.ackf, h.sbit, h.symbols.trans (symbols_startSeq _ _ _)⟩

/-- Settles O16: STOP ends as `LineEnd` says, with the symbols of `symbols_stopSeq`. -/
theorem stopMakesTheStopCondition : Obligations.StopMakesTheStopCondition := by
  unfold Obligations.StopMakesTheStopCondition
  intro s hs
  refine line_performs hs (.inr (.inl rfl)) fun t h => ?_
  exact ⟨h.lineState, h.rsp_zero fun _ => rfl, h.err, h.ackf, h.sbit, h.symbols.trans (symbols_stopSeq _ _ _)⟩

/-- Settles O17: WBIT ends as `LineEnd` says, with the symbols of `symbols_wbitSeq`. -/
theorem wbitSendsOneBit : Obligations.WbitSendsOneBit := by
  unfold Obligations.WbitSendsOneBit
  intro s b hs
  refine line_performs hs (.inr (.inr (.inl ⟨b, rfl⟩))) fun t h => ?_
  exact ⟨h.lineState, h.rsp_zero fun _ => rfl, h.err, h.ackf, h.sbit, h.symbols.trans (symbols_wbitSeq _ _ _ b)⟩

/-- Settles O18: RBIT ends as `LineEnd` says, with the symbols of `symbols_rbitSeq`; its one sample is in SBIT. -/
theorem rbitReturnsTheSample : Obligations.RbitReturnsTheSample := by
  unfold Obligations.RbitReturnsTheSample
  intro s hs
  refine line_performs hs (.inr (.inr (.inr rfl))) fun t h => ?_
  have hsbit : t.sbit = s.world.sampleAt s.cfg 0 := h.sbit
  refine ⟨h.lineState, hsbit, h.ackf, ?_, h.err, h.symbols.trans (symbols_rbitSeq _ _ _)⟩
  rw [h.rsp, hsbit]
  cases s.world.sampleAt s.cfg 0 <;> rfl

/-! ### The frame of the line commands -/

theorem testBit_portOut_perform {j : Fin 8} (ha : l.isAux = false) (hj : s.cfg.isI2c j = false) :
    testBit (perform l s).portOut j = testBit s.portOut j := by
  obtain ⟨hscl, hsda⟩ : j ≠ s.cfg.sclBit ∧ j ≠ s.cfg.sdaBit := by simpa [Config.isI2c] using hj
  cases l with
  | scl => simp [hscl]
  | sda => simp [hsda]
  | oe | sample => rfl
  | auxOut | auxDir => cases ha

/-- The state with everything a line command writes blanked out, SBIT included; what is left is its frame. -/
def lineFrame (s : State) : State :=
  { s with
    portOut := 0, portDir := 0, sbit := false, err := 0, fsm := .idle, phase := 0, cur := none, rsp := none, trace := []
    world := State.reset.world }

theorem lineFrame_perform (l : Line) (s : State) : lineFrame (perform l (takeAck s)) = lineFrame s := by
  cases l <;> rfl

/-- What a line command has kept of state s, and that it is over or at its one sub-sequence. -/
structure LineRun (s : State) (i : Instr) (u : State) : Prop where
  frame : lineFrame u = lineFrame s
  sbit : i ≠ .rbit → u.sbit = s.sbit
  auxOut : auxSame s.cfg u.portOut s.portOut
  place : u.fsm ≠ .idle → u.fsm = .single ∧ u.cur = some i

theorem LineRun.cfg (h : LineRun s i u) : u.cfg = s.cfg :=
  show (lineFrame u).cfg = (lineFrame s).cfg by rw [h.frame]

/-- A line step of the command's sub-sequence. -/
theorem LineRun_perform (hi : IsLineCommand i) (h : LineRun s i u) (hb : u.fsm ≠ .idle)
    (hn : nextLine u = some l) : LineRun s i (perform l (takeAck u)) := by
  obtain ⟨hf, hc⟩ := h.place hb
  obtain ⟨-, -, haux, hsample⟩ := singleSeq_line s s hi
  have hmem : l ∈ singleSeq s i := currentSeq_line s hf hc hi ▸ List.mem_of_getElem? hn
  have hl : l.isAux = false := by simpa using List.all_eq_true.mp haux l hmem
  refine ⟨(lineFrame_perform l u).trans h.frame, fun hr => ?_, fun j hj => ?_, fun _ => by simp [hf, hc]⟩
  · have hne : l ≠ .sample := fun e => hsample hr (e ▸ hmem)
    rw [perform_sbit, if_neg hne]
    exact h.sbit hr
  · exact (testBit_portOut_perform (s := takeAck u) hl (h.cfg ▸ hj)).trans (h.auxOut j hj)

theorem LineRun_primStep (hi : IsLineCommand i) (h : LineRun s i u) (hb : u.fsm ≠ .idle) :
    LineRun s i (primStep u) := by
  obtain ⟨hf, hc⟩ := h.place hb
  have hcount (l : Line) : performed l u = perform l (takeAck u) := countPulse_other (by simp [hf])
  cases hl : nextLine u with
  | none => rwa [show primStep u = u by simp [primStep, hl]]
  | some l =>
    have hp := LineRun_perform hi h hb hl
    cases ha : u.world.ack with
    | done =>
      by_cases hlt : u.phase + 1 < (currentSeq u).length
      · rw [primStep_next hl ha hlt, hcount]
        exact ⟨hp.frame, hp.sbit, hp.auxOut, hp.place⟩
      · rw [primStep_last hl ha hlt, hcount, finishSeq_line (by simpa using hf) (by simpa using hc) hi]
        exact ⟨hp.frame, hp.sbit, hp.auxOut, nofun⟩
    | wait =>
      rw [primStep_wait hl ha]
      exact ⟨h.frame, h.sbit, h.auxOut, h.place⟩
    | fault =>
      obtain ⟨w, hw, -⟩ := performFault_eq l (takeAck u)
      rw [primStep_fault hl ha, busTimeout, hw]
      exact ⟨h.frame, h.sbit, h.auxOut, nofun⟩

theorem LineRun_exec (hi : IsLineCommand i) (h : exec i s = .next t) : LineRun s i t := by
  rw [exec_line s hi] at h
  cases h
  exact advance_induction (P := LineRun s i) (fun _ hu hb => LineRun_primStep hi hu hb) _
    ⟨rfl, fun _ => rfl, fun _ _ => rfl, fun _ => ⟨rfl, rfl⟩⟩

/-- Settles O39: the run keeps `LineRun`, whose frame gives the registers and the buffers; the directions are
`DirsKept_exec`'s. -/
theorem lineCommandFrame : Obligations.LineCommandFrame := by
  unfold Obligations.LineCommandFrame
  intro s t i (hline : IsLineCommand i) h
  have hrun := LineRun_exec hline h
  obtain ⟨es, -, hdir⟩ := DirsKept_exec h
  have key {α : Type} (f : State → α) : f (lineFrame t) = f (lineFrame s) := congrArg f hrun.frame
  exact ⟨key (·.cfg), key (·.shreg), key (·.bitcnt), key (·.bytecnt), key (·.pulsecnt), key (·.addrb), key (·.rw),
    key (·.len), key (·.force), key (·.ackf), hrun.sbit, key (·.stopStatus), key (·.epoch), hrun.auxOut,
    fun j hj => (hdir j (not_writesDir_of_not_auxset hline.isAuxset hj)).1, fun a => key (readTx · a),
    fun a => key (readRx · a)⟩

end Sys2Proof.Machine
end

section
/-! PROOFS. Bits of a byte: the sampled byte bit by bit (R134), the receive shift (R131), and the symbols of sent and of
received bits (R12). -/

namespace Sys2Proof.Machine

/-! ### The sampled byte -/

/-- The first of the eight samples is bit 7 (R134). -/
theorem getLsbD_byteAt (w : World) (c : Config) (m : Nat) {k : Nat} (hk : k < 8) :
    (w.byteAt c m).getLsbD (7 - k) = w.sampleAt c (m + k) := by
  -- the width as `byteAt` builds it, bit by bit
  change BitVec.getLsbD (w := 1 + 1 + 1 + 1 + 1 + 1 + 1 + 1) _ _ = _
  simp only [World.byteAt, BitVec.getLsbD_append]
  interval_cases k <;> simp

theorem bitsOf_eq_map (v : Byte) : bitsOf v = (List.range 8).map fun k => v.getLsbD (7 - k) := rfl

theorem bitsOf_byteAt (w : World) (c : Config) (m : Nat) :
    bitsOf (w.byteAt c m) = (List.range 8).map fun k => w.sampleAt c (m + k) := by
  rw [bitsOf_eq_map]
  exact List.map_congr_left fun k hk => getLsbD_byteAt w c m (List.mem_range.mp hk)

theorem getLsbD_zextBit (b : Bool) (j : Nat) : (zextBit b).getLsbD j = (b && decide (j = 0)) := by
  cases b <;> simp [zextBit]

/-- The receive shift brings the next sample under the samples before it (R131, R134). -/
theorem shiftInBit_byteAt (w : World) (c : Config) (m : Nat) {k : Nat} (hk : k < 8) :
    shiftInBit (w.byteAt c m >>> (8 - k)) (w.sampleAt c (m + k)) = w.byteAt c m >>> (8 - (k + 1)) := by
  rw [← getLsbD_byteAt w c m hk]
  apply BitVec.eq_of_getLsbD_eq
  intro j hj
  simp only [shiftInBit, BitVec.getLsbD_or, BitVec.getLsbD_shiftLeft, BitVec.getLsbD_ushiftRight, getLsbD_zextBit]
  cases j with
  | zero => simp
  | succ j =>
    have hidx : 8 - k + j = 8 - (k + 1) + (j + 1) := by omega
    simp [hj, hidx]

/-! ### Line steps in parts -/

theorem performAll_append (L M : List Line) (u : State) : performAll (L ++ M) u = performAll M (performAll L u) := by
  induction L generalizing u with
  | nil => rfl
  | cons l L ih => exact ih _

/-! ### The symbols of bits that find the clock low -/

section
variable (c : Config) (f : Nat → Byte) (L : List Line)

theorem readWire_sendBit (d o b : Bool) :
    readWire c ⟨false, d, o, none⟩ (lineEvents f (sendBit b ++ L)) =
      .M b :: readWire c ⟨false, b, true, none⟩ (lineEvents f L) := rfl

theorem readWire_recvBit (d o : Bool) :
    readWire c ⟨false, d, o, none⟩ (lineEvents f (recvBit ++ L)) =
      .Zs (testBit (f 0) c.sdaBit) :: readWire c ⟨false, d, false, none⟩ (lineEvents (fun k => f (k + 1)) L) := rfl

/-- Sent bits are their symbols, and leave the clock low (R123). -/
theorem readWire_sendBits (bs : List Bool) (d o : Bool) :
    ∃ d' o', readWire c ⟨false, d, o, none⟩ (lineEvents f (bs.flatMap sendBit ++ L)) =
      bs.map .M ++ readWire c ⟨false, d', o', none⟩ (lineEvents f L) := by
  induction bs generalizing d o with
  | nil => exact ⟨d, o, rfl⟩
  | cons b bs ih =>
    obtain ⟨d', o', h⟩ := ih b true
    refine ⟨d', o', ?_⟩
    rw [List.flatMap_cons, List.append_assoc, readWire_sendBit, h]
    rfl

/-- Received bits are the symbols of their samples, and leave the clock low (R124). -/
theorem readWire_recvBits (n : Nat) (d o : Bool) :
    ∃ o', readWire c ⟨false, d, o, none⟩ (lineEvents f ((List.replicate n recvBit).flatten ++ L)) =
      (List.range n).map (fun k => .Zs (testBit (f k) c.sdaBit)) ++
        readWire c ⟨false, d, o', none⟩ (lineEvents (fun k => f (k + n)) L) := by
  induction n generalizing f o with
  | zero => exact ⟨o, rfl⟩
  | succ n ih =>
    obtain ⟨o', h⟩ := ih (fun k => f (k + 1)) false
    refine ⟨o', ?_⟩
    rw [List.replicate_succ, List.flatten_cons, List.append_assoc, readWire_recvBit, h, List.range_succ_eq_map,
      List.map_cons, List.map_map]
    rfl

end

end Sys2Proof.Machine
end

section
/-! PROOFS. The byte commands WBYTE and RBYTE (R130, R131): nine sub-sequences of four line steps, the byte in SHREG
between them. -/

namespace Sys2Proof.Machine

variable {s t u : State} {i : Instr} {l : Line}

/-! ### The nine sub-sequences -/

/-- WBYTE and RBYTE. -/
def IsByteCommand (i : Instr) : Prop := (∃ v, i = .wbyte v) ∨ ∃ a, i = .rbyte a

theorem IsByteCommand.isSingle (hi : IsByteCommand i) : i.isSingle = true := by
  rcases hi with ⟨v, rfl⟩ | ⟨a, rfl⟩ <;> rfl

theorem IsByteCommand.isAuxset (hi : IsByteCommand i) : i.isAuxset = false := by
  rcases hi with ⟨v, rfl⟩ | ⟨a, rfl⟩ <;> rfl

/-- The line steps of the k-th sub-sequence of a byte command: the eight bits, most significant first, then the ninth
(R130, R131). -/
def byteSeq : Instr → Nat → List Line
  | .wbyte v, k => if k < 8 then wbitSeq (v.getLsbD (7 - k)) else rbitSeq
  | .rbyte a, k => if k < 8 then rbitSeq else wbitSeq (answerBit a)
  | _, _ => []

/-- The line steps of the first k sub-sequences. -/
def byteLines (i : Instr) : Nat → List Line
  | 0 => []
  | k + 1 => byteLines i k ++ byteSeq i k

theorem byteLines_wbyte (v : Byte) : byteLines (.wbyte v) 9 = sendByte v ++ recvBit := rfl

theorem byteLines_rbyte (a : Bool) : byteLines (.rbyte a) 9 = recvByte ++ sendBit (!a) := rfl

theorem length_byteSeq (hi : IsByteCommand i) (k : Nat) : (byteSeq i k).length = 4 := by
  rcases hi with ⟨v, rfl⟩ | ⟨a, rfl⟩ <;> simp only [byteSeq] <;> split <;> rfl

theorem length_byteLines (hi : IsByteCommand i) (k : Nat) : (byteLines i k).length = 4 * k := by
  induction k with
  | zero => rfl
  | succ k ih => rw [byteLines, List.length_append, ih, length_byteSeq hi, Nat.mul_succ]

/-- The first 4q + j line steps are q whole sub-sequences and j line steps of the next one. -/
theorem take_byteLines (hi : IsByteCommand i) {q m j : Nat} (hq : q < m) (hj : j ≤ 4) :
    (byteLines i m).take (4 * q + j) = byteLines i q ++ (byteSeq i q).take j := by
  induction m with
  | zero => omega
  | succ m ih =>
    have hlen := length_byteLines hi m
    rw [byteLines]
    by_cases hqm : q = m
    · subst hqm
      rw [← hlen, List.take_length_add_append]
    · rw [List.take_append_of_le_length (by omega), ih (by omega)]

/-- RBYTE takes one sample for each bit received. -/
theorem count_sample_rbyte (a : Bool) {k : Nat} (hk : k ≤ 8) : (byteLines (.rbyte a) k).count .sample = k := by
  induction k with
  | zero => rfl
  | succ k ih =>
    rw [byteLines, byteSeq, if_pos (by omega), List.count_append, ih (by omega)]
    rfl

theorem count_sample_rbyte_all (a : Bool) : (byteLines (.rbyte a) 9).count .sample = 8 := rfl

theorem count_sample_wbyte_all (v : Byte) : (byteLines (.wbyte v) 9).count .sample = 1 := rfl

/-- WBYTE's one sample is its 35th line step. -/
theorem count_sample_wbyte (v : Byte) {k : Nat} (hk : k < 35) :
    ((byteLines (.wbyte v) 9).take k).count .sample = 0 := by
  have hnone : ((byteLines (.wbyte v) 9).take 34).count .sample = 0 := rfl
  have hsub : ((byteLines (.wbyte v) 9).take k).Sublist ((byteLines (.wbyte v) 9).take 34) :=
    (List.take_prefix_take_left (by omega)).sublist
  exact Nat.le_zero.mp (hnone ▸ hsub.count_le _)

theorem byteLines_not_aux (hi : IsByteCommand i) : (byteLines i 9).all (!·.isAux) = true := by
  rcases hi with ⟨v, rfl⟩ | ⟨a, rfl⟩ <;> rfl

/-! ### Between two sub-sequences -/

/-- The engine at the start of a sub-sequence, with a byte in SHREG and a count in BITCNT. -/
def withByte (v : Byte) (b : BitVec 4) (s : State) : State := { s with shreg := v, bitcnt := b, phase := 0 }

@[simp] theorem withByte_shreg (v : Byte) (b : BitVec 4) (s : State) : (withByte v b s).shreg = v := rfl
@[simp] theorem withByte_bitcnt (v : Byte) (b : BitVec 4) (s : State) : (withByte v b s).bitcnt = b := rfl
@[simp] theorem withByte_ackf (v : Byte) (b : BitVec 4) (s : State) : (withByte v b s).ackf = s.ackf := rfl

/-- No line step reads or writes SHREG, BITCNT or the phase. -/
theorem performAll_withByte (L : List Line) (v : Byte) (b : BitVec 4) (u : State) :
    performAll L (withByte v b u) = withByte v b (performAll L u) := by
  induction L generalizing u with
  | nil => rfl
  | cons l L ih =>
    rw [performAll, performAll, ← ih]
    cases l <;> rfl

/-- SHREG after k bits: the byte to send shifted out, or the samples so far in the low places (R133, R134). -/
def byteReg (s : State) : Instr → Nat → Byte
  | .wbyte v, k => v <<< k
  | .rbyte _, k => s.world.byteAt s.cfg 0 >>> (8 - k)
  | _, _ => s.shreg

/-- The engine after k sub-sequences of command i, all done. -/
def atBit (s : State) (i : Instr) (k : Nat) : State :=
  withByte (byteReg s i k) (BitVec.ofNat 4 (8 - k)) (performAll (byteLines i k) (accept i .single s))

theorem entry_byte (s : State) (hi : IsByteCommand i) : entry s i = atBit s i 0 := by
  rcases hi with ⟨v, rfl⟩ | ⟨a, rfl⟩
  · rw [atBit, byteReg, BitVec.shiftLeft_zero]
    rfl
  · rw [atBit, byteReg, BitVec.ushiftRight_eq_zero (Nat.le_refl 8)]
    rfl

@[simp] theorem atBit_fsm (s : State) (i : Instr) (k : Nat) : (atBit s i k).fsm = .single :=
  performAll_fsm (byteLines i k) (accept i .single s)

@[simp] theorem atBit_cur (s : State) (i : Instr) (k : Nat) : (atBit s i k).cur = some i :=
  performAll_cur (byteLines i k) (accept i .single s)

theorem atBit_ackAt (s : State) (hi : IsByteCommand i) (k j : Nat) :
    (atBit s i k).world.ackAt j = s.world.ackAt (4 * k + j) := by
  show (performAll (byteLines i k) (accept i .single s)).world.ackAt j = _
  rw [performAll_ackAt, length_byteLines hi, Nat.add_comm]
  rfl

theorem atBit_allDone {n : Nat} (hi : IsByteCommand i) (k : Nat) (hd : s.world.AllDone (4 * k + n)) :
    (atBit s i k).world.AllDone n :=
  fun j hj => (atBit_ackAt s hi k j).trans (hd _ (by omega))

theorem performAll_atBit (L : List Line) (s : State) (i : Instr) (k : Nat) :
    performAll L (atBit s i k) =
      withByte (byteReg s i k) (BitVec.ofNat 4 (8 - k)) (performAll (byteLines i k ++ L) (accept i .single s)) := by
  rw [atBit, performAll_withByte, performAll_append]

/-- BITCNT is 0 exactly at the ninth bit (R28). -/
theorem bitcnt_eq_zero_iff {k : Nat} (hk : k ≤ 8) : BitVec.ofNat 4 (8 - k) = 0 ↔ k = 8 := by
  revert k
  decide

/-- BITCNT counts down (R28). -/
theorem bitcnt_pred {k : Nat} (hk : k < 8) : BitVec.ofNat 4 (8 - k) - 1 = BitVec.ofNat 4 (8 - (k + 1)) := by
  revert k
  decide

/-- SHREG[7] is the bit to send (R133). -/
theorem testBit_shiftLeft_seven (v : Byte) {k : Nat} (hk : k < 8) : testBit (v <<< k) 7 = v.getLsbD (7 - k) := by
  show (v <<< k).getLsbD 7 = _
  have hge : ¬ 7 < k := by omega
  simp only [BitVec.getLsbD_shiftLeft, hge]
  rfl

theorem currentSeq_atBit (s : State) (hi : IsByteCommand i) {k : Nat} (hk : k ≤ 8) :
    currentSeq (atBit s i k) = byteSeq i k := by
  have hseq : currentSeq (atBit s i k) = singleSeq (atBit s i k) i := by simp only [currentSeq, atBit_fsm, atBit_cur]
  have hcnt : (atBit s i k).bitcnt = 0 ↔ k = 8 := bitcnt_eq_zero_iff hk
  rw [hseq]
  rcases hi with ⟨v, rfl⟩ | ⟨a, rfl⟩
  · by_cases h8 : k = 8
    · rw [singleSeq, if_pos (hcnt.mpr h8), byteSeq, if_neg (by omega)]
    · have hlt : k < 8 := by omega
      rw [singleSeq, if_neg (mt hcnt.mp h8), byteSeq, if_pos hlt, ← testBit_shiftLeft_seven v hlt]
      rfl
  · by_cases h8 : k = 8
    · rw [singleSeq, if_pos (hcnt.mpr h8), byteSeq, if_neg (by omega)]
    · rw [singleSeq, if_neg (mt hcnt.mp h8), byteSeq, if_pos (by omega)]

/-! ### The run of a byte command -/

/-- The engine at the end of the k-th sub-sequence of command i, before its transition. -/
def endOfBit (s : State) (i : Instr) (k : Nat) : State := setPhase 3 (performAll (byteSeq i k) (atBit s i k))

theorem endOfBit_eq (s : State) (i : Instr) (k : Nat) :
    endOfBit s i k = setPhase 3 (withByte (byteReg s i k) (BitVec.ofNat 4 (8 - k))
      (performAll (byteLines i (k + 1)) (accept i .single s))) := by
  rw [endOfBit, performAll_atBit, byteLines]

theorem finishSeq_endOfBit_single (s : State) (i : Instr) (k : Nat) :
    finishSeq (endOfBit s i k) = finishSingle (endOfBit s i k) i := by
  have hf : (endOfBit s i k).fsm = .single := by simp [endOfBit]
  have hc : (endOfBit s i k).cur = some i := by simp [endOfBit]
  simp only [finishSeq, hf, hc]

/-- SBIT at the end of the k-th bit received is its sample (R34). -/
theorem performAll_rbyte_sbit (s : State) (a : Bool) {k : Nat} (hk : k < 8) :
    (performAll (byteLines (.rbyte a) (k + 1)) (accept (.rbyte a) .single s)).sbit =
      s.world.sampleAt s.cfg (0 + k) := by
  rw [performAll_sbit, count_sample_rbyte a hk, Nat.zero_add]
  rfl

theorem enter_shiftOut (hf : u.fsm = .single) (v : Byte) (b : BitVec 4) (p : Nat) :
    enter .single (shiftOut (setPhase p (withByte v b u))) = withByte (v <<< 1) (b - 1) u := by
  rw [← hf]
  rfl

theorem enter_shiftIn (hf : u.fsm = .single) (v : Byte) (b : BitVec 4) (p : Nat) :
    enter .single (shiftIn (setPhase p (withByte v b u))) = withByte (shiftInBit v u.sbit) (b - 1) u := by
  rw [← hf]
  rfl

/-- After one of the eight bits SHREG shifts and the next sub-sequence begins (R130, R131). -/
theorem finishSeq_endOfBit (s : State) (hi : IsByteCommand i) {k : Nat} (hk : k < 8) :
    finishSeq (endOfBit s i k) = atBit s i (k + 1) := by
  have hcnt : (endOfBit s i k).bitcnt = BitVec.ofNat 4 (8 - k) := by rw [endOfBit_eq]; rfl
  have hne : ¬ (endOfBit s i k).bitcnt = 0 := by rw [hcnt, bitcnt_eq_zero_iff hk.le]; omega
  rw [finishSeq_endOfBit_single]
  rcases hi with ⟨v, rfl⟩ | ⟨a, rfl⟩
  · rw [finishSingle, if_neg hne, endOfBit_eq, enter_shiftOut (by simp), bitcnt_pred hk, byteReg,
      ← BitVec.shiftLeft_add]
    rfl
  · rw [finishSingle, if_neg hne, endOfBit_eq, enter_shiftIn (by simp), bitcnt_pred hk, performAll_rbyte_sbit s a hk,
      byteReg, shiftInBit_byteAt _ _ _ hk]
    rfl

/-- The run through the k-th sub-sequence, all done. -/
theorem advance_bit (n : Nat) (hi : IsByteCommand i) {k : Nat} (hk : k ≤ 8) (hd : s.world.AllDone (4 * k + 4)) :
    advance (4 + n) (atBit s i k) = advance n (finishSeq (endOfBit s i k)) := by
  have hlen := length_byteSeq hi k
  have hrun := advance_seq n (currentSeq_atBit s hi hk) rfl (List.ne_nil_of_length_pos (by omega)) (by simp) (by simp)
    (atBit_allDone hi k (by rwa [hlen]))
  rwa [hlen] at hrun

/-- The run through the first k sub-sequences, all done. -/
theorem advance_bits (n : Nat) (hi : IsByteCommand i) {k : Nat} (hk : k ≤ 8) (hd : s.world.AllDone (4 * k)) :
    advance (4 * k + n) (entry s i) = advance n (atBit s i k) := by
  induction k generalizing n with
  | zero => rw [entry_byte s hi, Nat.mul_zero, Nat.zero_add]
  | succ k ih =>
    rw [Nat.mul_succ, Nat.add_assoc, ih _ (by omega) (hd.mono (by omega)), advance_bit n hi (by omega) hd,
      finishSeq_endOfBit s hi hk]

/-! ### How a byte command ends -/

/-- The state in which a byte command ends when every primitive is done. -/
def byteEnd (s : State) (i : Instr) : State := finishSeq (endOfBit s i 8)

theorem exec_byte_done (hs : s.fsm = .idle) (hi : IsByteCommand i) (hd : s.world.AllDone 36)
    (hend : (byteEnd s i).fsm = .idle) : exec i s = .next (byteEnd s i) := by
  obtain ⟨n, hn⟩ := Nat.exists_eq_add_of_le (show 4 * 8 + 4 ≤ Config.maxPrimitives by decide)
  rw [exec_eq_advance_entry i hs, hn, Nat.add_assoc, advance_bits _ hi (Nat.le_refl 8) (hd.mono (by decide)),
    advance_bit n hi (Nat.le_refl 8) hd]
  exact congrArg _ (advance_idle hend n)

theorem busTimeout_keeps (l : Line) (s : State) : (busTimeout l s).shreg = s.shreg ∧
    (busTimeout l s).ackf = s.ackf ∧ (busTimeout l s).sbit = s.sbit := by
  cases l <;> exact ⟨rfl, rfl, rfl⟩

/-- The engine when it offers the k-th primitive of command i, all before it done. -/
def beforePrim (s : State) (i : Instr) (k : Nat) : State :=
  setPhase (k % 4) (withByte (byteReg s i (k / 4)) (BitVec.ofNat 4 (8 - k / 4))
    (performAll ((byteLines i 9).take k) (accept i .single s)))

theorem exec_byte_busTimeout (hs : s.fsm = .idle) (hi : IsByteCommand i) {k : Nat} (hk : k < 36)
    (hd : s.world.AllDone k) (hx : s.world.ackAt k = .fault) :
    ∃ l, exec i s = .next (busTimeout l (takeAck (beforePrim s i k))) := by
  obtain ⟨n, hn⟩ := Nat.exists_eq_add_of_le (Nat.le_trans (show k + 1 ≤ 36 from hk)
    (show 36 ≤ Config.maxPrimitives by decide))
  have hdiv := Nat.div_add_mod k 4
  have hmod := Nat.mod_lt k (show 0 < 4 by decide)
  rw [beforePrim]
  generalize k / 4 = q at *
  generalize k % 4 = j at *
  subst hdiv
  have hj : j < (byteSeq i q).length := (length_byteSeq hi q).symm ▸ hmod
  have hfault := advance_fault j n (currentSeq_atBit s hi (by omega)) rfl (List.getElem?_eq_getElem hj)
    (by simp) (by simp) (atBit_allDone hi q hd) ((atBit_ackAt s hi q j).trans hx)
  rw [performAll_atBit, ← take_byteLines hi (show q < 9 by omega) hmod.le] at hfault
  refine ⟨(byteSeq i q)[j], ?_⟩
  rw [exec_eq_advance_entry i hs, hn, show 4 * q + j + 1 + n = 4 * q + (j + (n + 1)) by omega,
    advance_bits _ hi (by omega) (hd.mono (by omega)), hfault]

/-- What a byte command leaves when its k-th primitive is the first to fault: the line steps before it and BUS_TIMEOUT;
SHREG after the whole bits, ACKF as it was, and SBIT too when no sample was taken (R204). -/
structure ByteFault (s : State) (i : Instr) (k : Nat) (t : State) : Prop where
  lines : linesBetween s t = ((byteLines i 9).take k).map some ++ [none]
  idle : t.fsm = .idle
  rsp : t.rsp = some 0x03000000
  err : t.err = 0x03
  shreg : t.shreg = byteReg s i (k / 4)
  ackf : t.ackf = s.ackf
  sbit : ((byteLines i 9).take k).count .sample = 0 → t.sbit = s.sbit

theorem byteFault_busTimeout (s : State) (hi : IsByteCommand i) (k : Nat) (l : Line) :
    ByteFault s i k (busTimeout l (takeAck (beforePrim s i k))) := by
  obtain ⟨hshreg, hackf, hsbit⟩ := busTimeout_keeps l (takeAck (beforePrim s i k))
  have hcur : (takeAck (beforePrim s i k)).cur = some i := performAll_cur ((byteLines i 9).take k) (accept i .single s)
  refine ⟨?_, rfl, ?_, rfl, hshreg, hackf.trans ?_, fun hz => hsbit.trans ?_⟩
  · obtain ⟨es, htr, hline⟩ := performAll_trace ((byteLines i 9).take k) (accept i .single s)
    have hev : (busTimeout l (takeAck (beforePrim s i k))).trace = s.trace ++ (es ++ [.fault]) := by
      rw [busTimeout_trace, ← List.append_assoc]
      exact congrArg (· ++ [Event.fault]) htr
    rw [linesBetween, eventsBetween_of_trace hev, List.map_append, hline]
    rfl
  · rw [busTimeout, respond_rsp, countOf_single hi.isSingle hcur]
    rfl
  · exact performAll_ackf ((byteLines i 9).take k) (accept i .single s)
  · exact (performAll_sbit ((byteLines i 9).take k) (accept i .single s)).trans (if_pos hz)

theorem exec_byte_fault (hs : s.fsm = .idle) (hi : IsByteCommand i) {k : Nat} (hk : k < 36) (hd : s.world.AllDone k)
    (hx : s.world.ackAt k = .fault) : ∃ t, exec i s = .next t ∧ ByteFault s i k t := by
  obtain ⟨l, hrun⟩ := exec_byte_busTimeout hs hi hk hd hx
  exact ⟨_, hrun, byteFault_busTimeout s hi k l⟩

/-- How a byte command ends when all its primitives are done: their line steps, the line state they drive, SBIT their
last sample, OK, and the symbols of the line steps (R97, R130, R131). -/
structure ByteEnd (i : Instr) (s t : State) : Prop where
  idle : t.fsm = .idle
  err : t.err = 0x00
  lineState : t.lineState = (byteLines i 9).foldl Line.drive s.lineState
  sbit : t.sbit = if (byteLines i 9).count .sample = 0 then s.sbit else
    s.world.sampleAt s.cfg ((byteLines i 9).count .sample - 1)
  lines : linesBetween s t = (byteLines i 9).map some
  symbols : symbols s.cfg s.lineState (eventsBetween s t) =
    symbols s.cfg s.lineState (lineEvents s.world.inAt (byteLines i 9))

/-- The ninth sub-sequence ends with all the line steps performed and BITCNT 0. -/
theorem endOfBit_last (s : State) (i : Instr) : endOfBit s i 8 =
    setPhase 3 (withByte (byteReg s i 8) 0 (performAll (byteLines i 9) (accept i .single s))) :=
  endOfBit_eq s i 8

theorem endOfBit_last_regs (s : State) (i : Instr) : (endOfBit s i 8).bitcnt = 0 ∧
    (endOfBit s i 8).shreg = byteReg s i 8 ∧ (endOfBit s i 8).ackf = s.ackf := by
  simp [endOfBit_last]

/-- WBYTE's ninth sub-sequence ends with the acknowledge detected and its response; the byte is shifted out of SHREG
(R130, R132, R133). -/
theorem byteEnd_wbyte (s : State) (v : Byte) : ∃ u : State,
    byteEnd s (.wbyte v) = respond .ok 0 (zextBit (ackOf u.sbit)) (detectAck u) ∧ u.shreg = 0x00 := by
  obtain ⟨hz, hreg, -⟩ := endOfBit_last_regs s (.wbyte v)
  refine ⟨endOfBit s (.wbyte v) 8, ?_, hreg.trans (BitVec.shiftLeft_eq_zero (Nat.le_refl 8))⟩
  rw [byteEnd, finishSeq_endOfBit_single, finishSingle, if_pos hz]

/-- RBYTE's ninth sub-sequence ends with its response; the sampled byte is in SHREG (R131, R134). -/
theorem byteEnd_rbyte (s : State) (a : Bool) : ∃ u : State,
    byteEnd s (.rbyte a) = respond .ok 0 u.shreg u ∧ u.shreg = s.world.byteAt s.cfg 0 ∧ u.ackf = s.ackf := by
  obtain ⟨hz, hreg, hackf⟩ := endOfBit_last_regs s (.rbyte a)
  refine ⟨endOfBit s (.rbyte a) 8, ?_, hreg.trans (BitVec.ushiftRight_zero _), hackf⟩
  rw [byteEnd, finishSeq_endOfBit_single, finishSingle, if_pos hz]

theorem byteEnd_responds (s : State) (hi : IsByteCommand i) :
    (byteEnd s i).fsm = .idle ∧ (byteEnd s i).err = 0x00 := by
  rcases hi with ⟨v, rfl⟩ | ⟨a, rfl⟩
  · obtain ⟨u, hu, -⟩ := byteEnd_wbyte s v
    rw [hu]
    exact ⟨rfl, rfl⟩
  · obtain ⟨u, hu, -⟩ := byteEnd_rbyte s a
    rw [hu]
    exact ⟨rfl, rfl⟩

theorem byteEnd_end (hl : s.cfg.legal = true) (hi : IsByteCommand i) : ByteEnd i s (byteEnd s i) := by
  obtain ⟨hidle, herr⟩ := byteEnd_responds s hi
  have hsame : SameOutside (endOfBit s i 8) (byteEnd s i) := finishSeq_same _
  rw [endOfBit_last] at hsame
  obtain ⟨es, htr, hline, hread⟩ := readWire_performAll (byteLines i 9) (accept i .single s)
  have hstate := lineState_performAll (u := accept i .single s) hl (byteLines_not_aux hi)
  have hsbit := performAll_sbit (byteLines i 9) (accept i .single s)
  generalize performAll (byteLines i 9) (accept i .single s) = u at *
  have hev : eventsBetween s (byteEnd s i) = es := eventsBetween_of_trace (hsame.trace.trans htr)
  obtain ⟨hscl, hsda, hoe⟩ := hsame.lines
  refine ⟨hidle, herr, ?_, hsame.sbit.trans hsbit, by rw [linesBetween, hev, hline], by rw [hev]; exact hread _ _⟩
  rw [State.lineState, hscl, hsda, hoe]
  exact hstate

/-- What a byte command performs, for any claim P that holds where it ends. -/
theorem byte_performs {P : State → Prop} (hs : s.Ready) (hi : IsByteCommand i) (hP : P (byteEnd s i)) :
    PerformsLines i (byteLines i 9) s P := by
  have hend := byteEnd_end hs.legal hi
  refine ⟨fun hd => ?_, fun k hk hd hx => ?_⟩
  · rw [length_byteLines hi] at hd
    exact ⟨_, exec_byte_done hs.idle hi hd hend.idle, hend.lines, hend.idle, hP⟩
  · rw [length_byteLines hi] at hk
    obtain ⟨t, hrun, hf⟩ := exec_byte_fault hs.idle hi hk hd hx
    exact ⟨t, hrun, hf.lines, hf.idle, hf.rsp, hf.err⟩

/-! ### The symbols of a byte -/

/-- From SCL = 0 WBYTE is on the wire its eight bits and the sampled ninth (R130). -/
theorem symbols_wbyte (c : Config) (v : Byte) (d o : Bool) (f : Nat → Byte) :
    symbols c (false, d, o) (lineEvents f (byteLines (.wbyte v) 9)) =
      (bitsOf v).map .M ++ [.Zs (testBit (f 0) c.sdaBit)] := by
  obtain ⟨d', o', h⟩ := readWire_sendBits c f recvBit (bitsOf v) d o
  rw [byteLines_wbyte]
  exact h

/-- From SCL = 0 RBYTE is on the wire its eight samples and the master's answer (R131). -/
theorem symbols_rbyte (a : Bool) (w : World) (c : Config) (d o : Bool) :
    symbols c (false, d, o) (lineEvents w.inAt (byteLines (.rbyte a) 9)) =
      (bitsOf (w.byteAt c 0)).map .Zs ++ [.M (!a)] := by
  obtain ⟨o', h⟩ := readWire_recvBits c w.inAt (sendBit (!a)) 8 d o
  have hbits : bitsOf (w.byteAt c 0) = (List.range 8).map fun k => w.sampleAt c k := by
    simpa only [Nat.zero_add] using bitsOf_byteAt w c 0
  rw [byteLines_rbyte, hbits, List.map_map]
  exact h

/-- Settles O19: WBYTE ends as `ByteEnd` says with the acknowledge detected, or at a fault as `ByteFault` says; no
sample is taken before its 35th primitive. -/
theorem wbyteSendsTheByteAndDetectsTheAck : Obligations.WbyteSendsTheByteAndDetectsTheAck := by
  unfold Obligations.WbyteSendsTheByteAndDetectsTheAck
  intro s v hs
  have hi : IsByteCommand (.wbyte v) := .inl ⟨v, rfl⟩
  refine ⟨byte_performs hs hi ?_, fun k hk hd hx => ?_⟩
  · have hend := byteEnd_end hs.legal hi
    have hsbit : (byteEnd s (.wbyte v)).sbit = s.world.sampleAt s.cfg 0 := by
      rw [hend.sbit, count_sample_wbyte_all]
      rfl
    obtain ⟨u, hu, hshreg⟩ := byteEnd_wbyte s v
    rw [hend.symbols]
    rw [hu] at hend hsbit ⊢
    refine ⟨hend.lineState, hsbit, congrArg ackOf hsbit, hshreg, rfl, ?_, fun hscl => ?_⟩
    · have husbit : u.sbit = s.world.sampleAt s.cfg 0 := hsbit
      rw [respond_rsp, husbit]
      cases s.world.sampleAt s.cfg 0 <;> rfl
    · rw [State.lineState, hscl]
      exact symbols_wbyte ..
  · obtain ⟨t, hrun, hf⟩ := exec_byte_fault hs.idle hi (by omega) hd hx
    exact ⟨t, hrun, hf.ackf, hf.sbit (count_sample_wbyte v hk)⟩

/-- Settles O20: RBYTE ends as `ByteEnd` says with the sampled byte in SHREG, or at a fault as `ByteFault` says. -/
theorem rbyteReturnsTheSampledByte : Obligations.RbyteReturnsTheSampledByte := by
  unfold Obligations.RbyteReturnsTheSampledByte
  intro s a hs
  have hi : IsByteCommand (.rbyte a) := .inr ⟨a, rfl⟩
  refine ⟨byte_performs hs hi ?_, fun k hk _ hd hx => ?_⟩
  · have hend := byteEnd_end hs.legal hi
    have hsbit : (byteEnd s (.rbyte a)).sbit = s.world.sampleAt s.cfg 7 := by
      rw [hend.sbit, count_sample_rbyte_all]
      rfl
    obtain ⟨u, hu, hshreg, hackf⟩ := byteEnd_rbyte s a
    rw [hend.symbols]
    rw [hu, hshreg] at hend hsbit ⊢
    refine ⟨hend.lineState, hshreg, hsbit, hackf, rfl, rfl, fun hscl => ?_⟩
    rw [State.lineState, hscl]
    exact symbols_rbyte ..
  · obtain ⟨t, hrun, hf⟩ := exec_byte_fault hs.idle hi hk hd hx
    exact ⟨t, hrun, hf.shreg, hf.ackf⟩

end Sys2Proof.Machine
end

section
/-! PROOFS. The frame of the byte commands: the auxiliary bits of PORT_OUT (R24), kept by every bus command, and the
registers that WBYTE and RBYTE do not write. -/

namespace Sys2Proof.Machine

variable {s t : State} {i : Instr} {l : Line}

/-! ### The auxiliary bits of PORT_OUT -/

/-- AUXSET's primitives are performed by AUXSET alone. -/
theorem cur_of_nextLine_isAux (h : nextLine s = some l) (ha : l.isAux = true) :
    ∃ b v, s.cur = some (.auxset b v) := by
  have hmem : l ∈ currentSeq s := List.mem_of_getElem? h
  have haux : ¬ (currentSeq s).all (!·.isAux) = true := fun hall => by
    simpa [ha] using List.all_eq_true.mp hall l hmem
  cases hf : s.fsm with
  | idle | start | address | ackAddr | stop | recSample | recPulse =>
    simp only [currentSeq, hf] at haux
    exact absurd rfl haux
  | dataPhase | ackData =>
    simp only [currentSeq, hf] at haux
    split at haux <;> exact absurd rfl haux
  | single =>
    cases hc : s.cur with
    | none => simp [currentSeq, hf, hc] at haux
    | some i =>
      simp only [currentSeq, hf, hc] at haux
      cases i with
      | auxset b v => exact ⟨b, v, rfl⟩
      | wbyte | rbyte =>
        simp only [singleSeq] at haux
        split at haux <;> exact absurd rfl haux
      | start | stop | wbit | rbit | xferW | xferR | recover | txwr | rxrd => exact absurd rfl haux

/-- The auxiliary bits survive a primitive of any other command. -/
theorem auxSame_portOut_primStep (hi : i.isAuxset = false) (h : s.Running i) (hb : s.fsm ≠ .idle) :
    auxSame s.cfg (primStep s).portOut s.portOut := by
  intro j hj
  rcases primStep_cases s with ⟨he, -⟩ | ⟨l, hl, ⟨-, hd⟩ | ⟨-, hw⟩ | ⟨-, w, hf⟩⟩
  · rw [he]
  · have ha : l.isAux = false := by
      by_contra hne
      obtain ⟨b, v, hc⟩ := cur_of_nextLine_isAux hl (by simpa using hne)
      obtain rfl : i = .auxset b v := Option.some.inj ((h.cur hb).symm.trans hc)
      cases hi
    rw [hd.portOut]
    exact testBit_portOut_perform (s := takeAck s) ha hj
  · rw [hw]
    rfl
  · rw [hf]
    rfl

theorem entry_portOut (s : State) (i : Instr) : (entry s i).portOut = s.portOut := by
  cases i with
  | xferR addr n => simp only [entry]; split <;> rfl
  | auxset bit value => simp only [entry]; split <;> rfl
  | start | stop | wbit | rbit | wbyte | rbyte | xferW | recover | txwr | rxrd => rfl

/-- So they survive every command but AUXSET (R24). -/
theorem auxSame_portOut_exec (hi : i.isAuxset = false) (h : exec i s = .next t) :
    auxSame s.cfg t.portOut s.portOut := by
  have hstart : auxSame s.cfg (entry s i).portOut s.portOut := fun j _ => by rw [entry_portOut]
  refine (exec_running_induction (P := fun u => u.cfg = s.cfg ∧ auxSame s.cfg u.portOut s.portOut)
    ⟨rfl, fun _ _ => rfl⟩ ⟨(entry_keeps s i).1, hstart⟩ (fun _ u hu ⟨hc, hP⟩ hb => ?_) h).2
  refine ⟨(primStep_keeps u).1.trans hc, fun j hj => ?_⟩
  exact (auxSame_portOut_primStep hi hu hb j (hc ▸ hj)).trans (hP j hj)

/-! ### The registers -/

/-- The state with everything a byte command writes blanked out; what is left is its frame. -/
def byteFrame (s : State) : State :=
  { s with
    portOut := 0, portDir := 0, shreg := 0, bitcnt := 0, ackf := false, sbit := false, err := 0, fsm := .idle
    phase := 0, cur := none, rsp := none, trace := [], world := State.reset.world }

/-- What a byte command has kept of state s, and that it is over or in state SINGLE. -/
structure ByteRun (s u : State) : Prop where
  frame : byteFrame u = byteFrame s
  place : u.fsm ≠ .idle → u.fsm = .single

theorem performed_single (l : Line) (hf : s.fsm = .single) : performed l s = perform l (takeAck s) :=
  countPulse_other (by simp [hf])

theorem byteFrame_performed (l : Line) (hf : s.fsm = .single) : byteFrame (performed l s) = byteFrame s := by
  rw [performed_single l hf]
  cases l <;> rfl

/-- A sub-sequence of state SINGLE ends in IDLE or SINGLE, and writes nothing but what a byte command writes. -/
theorem SeqEnd.byteRun (he : SeqEnd s t) (hf : s.fsm = .single) : ByteRun s t := by
  cases he with
  | single | wbyteLast => exact ⟨rfl, nofun⟩
  | wbyteBit | rbyteBit => exact ⟨rfl, fun _ => rfl⟩
  | started h | addressBit h | addressByte h | addressOnly h | addressAcked h | bitSent h | bitReceived h | byteSent h
  | byteReceived h | byteAnswered h | byteAcked h | byteNacked h | stopped h | lineFree h | lineForced h | lineHeld h
  | pulseLast h | pulseHeld h => cases hf.symm.trans h

theorem PrimOutcome.byteRun (ho : PrimOutcome s t) (hf : s.fsm = .single) : ByteRun s t := by
  cases ho with
  | lost | wait => exact ⟨rfl, fun _ => hf⟩
  | next => exact ⟨byteFrame_performed _ hf, fun _ => (performed_fsm s _).trans hf⟩
  | last _ _ _ he =>
    obtain ⟨hframe, hplace⟩ := he.byteRun ((performed_fsm s _).trans hf)
    exact ⟨hframe.trans (byteFrame_performed _ hf), hplace⟩
  | fault => exact ⟨rfl, nofun⟩

theorem ByteRun_exec (hi : IsByteCommand i) (h : exec i s = .next t) : ByteRun s t := by
  obtain ⟨rfl, hentry⟩ : t = advance Config.maxPrimitives (entry s i) ∧ ByteRun s (entry s i) := by
    rcases hi with ⟨v, rfl⟩ | ⟨a, rfl⟩ <;> cases h <;> exact ⟨rfl, rfl, fun _ => rfl⟩
  refine advance_induction (P := ByteRun s) (fun u hu hb => ?_) _ hentry
  obtain ⟨hframe, hplace⟩ := (primStep_outcome u).byteRun (hu.place hb)
  exact ⟨hframe.trans hu.frame, hplace⟩

/-- Settles O40: the frame of the run gives the registers and the buffers; ACKF, the auxiliary bits and the directions
have their own laws for every command (`ackFlagIsWrittenBySentBytesOnly`, `auxSame_portOut_exec`, `DirsKept_exec`). -/
theorem byteCommandFrame : Obligations.ByteCommandFrame := by
  unfold Obligations.ByteCommandFrame
  intro s t i (hi : IsByteCommand i) h
  have hrun := ByteRun_exec hi h
  have key {α : Type} (f : State → α) : f (byteFrame t) = f (byteFrame s) := congrArg f hrun.frame
  obtain ⟨es, -, hdir⟩ := DirsKept_exec h
  refine ⟨key (·.cfg), key (·.bytecnt), key (·.pulsecnt), key (·.addrb), key (·.rw), key (·.len), key (·.force),
    ?_, key (·.stopStatus), key (·.epoch), auxSame_portOut_exec hi.isAuxset h,
    fun j hj => (hdir j (not_writesDir_of_not_auxset hi.isAuxset hj)).1, fun a => key (readTx · a),
    fun a => key (readRx · a)⟩
  rintro ⟨a, rfl⟩
  by_contra hne
  simpa using ackFlagIsWrittenBySentBytesOnly s t _ h hne

end Sys2Proof.Machine
end

section
/-! PROOFS. Runs in parts: the registers of one state at the port of another, and the sub-sequences of a transfer (R146) as
moves from registers to registers, all primitives done. -/

namespace Sys2Proof.Machine

variable {s t u r r' r'' : State} {i : Instr} {L M : List Line}

/-! ### Registers at a port -/

/-- The registers of r at the port of u. The port is what line steps read and write: the configuration, PORT_OUT,
PORT_DIR, SBIT, the trace and the inputs (R67). -/
def onPort (r u : State) : State :=
  { r with
    cfg := u.cfg, portOut := u.portOut, portDir := u.portDir, sbit := u.sbit, trace := u.trace, world := u.world }

@[simp] theorem onPort_fsm (r u : State) : (onPort r u).fsm = r.fsm := rfl

@[simp] theorem onPort_world (r u : State) : (onPort r u).world = u.world := rfl

/-- Line steps read and write the port alone. -/
theorem performAll_onPort (L : List Line) (r u : State) : performAll L (onPort r u) = onPort r (performAll L u) := by
  induction L generalizing u with
  | nil => rfl
  | cons l L ih =>
    rw [performAll, performAll, ← ih]
    cases l <;> rfl

theorem currentSeq_onPort (r u : State) : currentSeq (onPort r u) = currentSeq r :=
  currentSeq_congr rfl rfl rfl rfl rfl rfl rfl

/-- The samples to come after line steps. -/
theorem performAll_sampleAt (c : Config) (L : List Line) (u : State) (k : Nat) :
    (performAll L u).world.sampleAt c k = u.world.sampleAt c (k + L.count .sample) :=
  congrArg (testBit · c.sdaBit) (performAll_inAt L u k)

theorem count_sample_flatMap {B : Nat → List Line} {c : Nat} (h : ∀ k, (B k).count .sample = c) (m : Nat) :
    ((List.range m).flatMap B).count .sample = c * m := by
  simp [List.count_flatMap, Function.comp_def, h, Nat.mul_comm]

/-- The byte of the samples to come after line steps. -/
theorem performAll_byteAt (c : Config) (L : List Line) (u : State) (k : Nat) :
    (performAll L u).world.byteAt c k = u.world.byteAt c (k + L.count .sample) := by
  simp only [World.byteAt, performAll_sampleAt, Nat.add_right_comm k _ (L.count .sample)]

/-- A state whose last sample is b. -/
def sampled (b : Bool) (s : State) : State := { s with sbit := b }

theorem onPort_ite (c : Prop) [Decidable c] (r r' u : State) :
    onPort (if c then r else r') u = if c then onPort r u else onPort r' u := apply_ite (onPort · u) c r r'

/-- Of the port the end of a sub-sequence reads SBIT alone, and it writes none of it. -/
theorem finishSeq_onPort (r u : State) : finishSeq (onPort r u) = onPort (finishSeq (sampled u.sbit r)) u := by
  have hf' : (onPort r u).fsm = r.fsm ∧ (sampled u.sbit r).fsm = r.fsm := ⟨rfl, rfl⟩
  have hc' : (onPort r u).cur = r.cur ∧ (sampled u.sbit r).cur = r.cur := ⟨rfl, rfl⟩
  cases hf : r.fsm with
  | idle | start | stop =>
    simp only [finishSeq, hf', hf]
    rfl
  | address | ackAddr | dataPhase | ackData | recSample | recPulse =>
    simp only [finishSeq, hf', hf, finishAckAddr, finishDataBit, finishAckData, countByte, finishRecSample,
      finishRecPulse, onPort_ite]
    rfl
  | single =>
    simp only [finishSeq, hf', hc', hf]
    cases r.cur with
    | none => rfl
    | some i => cases i <;> simp only [finishSingle, onPort_ite] <;> rfl

/-! ### Moves -/

/-- From registers r at the port of u the line steps L, all done, lead to registers r'. -/
def Moves (u r : State) (L : List Line) (r' : State) : Prop :=
  u.world.AllDone L.length → ∀ n, advance (L.length + n) (onPort r u) = advance n (onPort r' (performAll L u))

theorem Moves.refl (u r : State) : Moves u r [] r := fun _ n => by rw [List.length_nil, Nat.zero_add]; rfl

theorem Moves.trans (h : Moves u r L r') (h' : Moves (performAll L u) r' M r'') : Moves u r (L ++ M) r'' := by
  intro hd n
  rw [List.length_append] at hd ⊢
  rw [Nat.add_assoc, h (hd.mono (by omega)), performAll_append]
  exact h' (fun k hk => (performAll_ackAt L u k).trans (hd _ (by omega))) n

/-- Moves one after another. -/
theorem Moves.iterate {m : Nat} (R : Nat → State) (B : Nat → List Line)
    (h : ∀ k, k < m → Moves (performAll ((List.range k).flatMap B) u) (R k) (B k) (R (k + 1))) :
    Moves u (R 0) ((List.range m).flatMap B) (R m) := by
  induction m with
  | zero => exact .refl u (R 0)
  | succ m ih =>
    rw [List.range_succ, List.flatMap_append, List.flatMap_singleton]
    exact (ih fun k hk => h k (by omega)).trans (h m (by omega))

/-- A whole sub-sequence and its transition (R69, R146). -/
theorem moves_seq (hL : currentSeq r = L) (hp : r.phase = 0) (hne : L ≠ []) (hf : r.fsm ≠ .idle)
    (hr : r.fsm ≠ .recPulse)
    (hend : ∀ x w, x = (performAll L u).sbit →
      onPort (finishSeq (setPhase (L.length - 1) (sampled x r))) w = onPort r' w) :
    Moves u r L r' := by
  intro hd n
  rw [advance_seq n ((currentSeq_onPort r u).trans hL) hp hne hf hr hd, performAll_onPort]
  exact congrArg (advance n) ((finishSeq_onPort (setPhase (L.length - 1) r) (performAll L u)).trans (hend _ _ rfl))

/-- A command whose moves lead to IDLE ends there. -/
theorem exec_of_moves (hs : s.fsm = .idle) (hport : onPort (entry s i) s = entry s i) (h : Moves s (entry s i) L r)
    (hr : r.fsm = .idle) (hd : s.world.AllDone L.length) (hlen : L.length ≤ Config.maxPrimitives) :
    exec i s = .next (onPort r (performAll L s)) := by
  obtain ⟨n, hn⟩ := Nat.exists_eq_add_of_le hlen
  have hrun := h hd n
  rw [hport] at hrun
  rw [exec_eq_advance_entry i hs, hn, hrun, advance_idle (s := onPort r (performAll L s)) hr]

/-! ### The sub-sequences of a transfer -/

/-- START leaves to ADDRESS with ADDRB loaded. -/
theorem moves_start (hf : r.fsm = .start) (hp : r.phase = 0) :
    Moves u r startLines (enter .address (withByte r.addrb 8 r)) := by
  refine moves_seq (by simp only [currentSeq, hf]; rfl) hp nofun (by simp [hf]) (by simp [hf]) fun x w _ => ?_
  have hf' : (sampled x r).fsm = .start := hf
  simp only [finishSeq, setPhase_fsm, hf']
  rfl

/-- The states in which the eight bits of SHREG are sent: f leaves to g after the last (R146). -/
structure SendsBits (r : State) (f g : Fsm) : Prop where
  busy : f ≠ .idle
  noPulse : f ≠ .recPulse
  seq : ∀ v b, currentSeq (enter f (withByte v b r)) = wbitSeq (testBit v 7)
  fin : ∀ v b p x w, onPort (finishSeq (setPhase p (sampled x (enter f (withByte v b r))))) w =
    onPort (enter (if b - 1 = 0 then g else f) (withByte (v <<< 1) (b - 1) r)) w

theorem sendsBits_address (r : State) : SendsBits r .address .ackAddr where
  busy := nofun
  noPulse := nofun
  seq _ _ := rfl
  fin v b p x w := by
    show onPort (if b - 1 = 0 then _ else _) w = _
    split <;> rfl

theorem sendsBits_data (hw : r.rw = false) : SendsBits r .dataPhase .ackData where
  busy := nofun
  noPulse := nofun
  seq v b := by
    show (if r.rw = true then _ else _) = _
    rw [hw]
    rfl
  fin v b p x w := by
    show onPort (if r.rw = true then _ else if b - 1 = 0 then _ else _) w = _
    rw [hw]
    show onPort (if b - 1 = 0 then _ else _) w = _
    split <;> rfl

/-- The engine after k of the eight bits of v are sent. -/
def sentBits (f g : Fsm) (v : Byte) (r : State) (k : Nat) : State :=
  enter (if k = 8 then g else f) (withByte (v <<< k) (BitVec.ofNat 4 (8 - k)) r)

/-- Eight bits sent, most significant first; SHREG is empty after them. -/
theorem moves_sendByte {f g : Fsm} (h : SendsBits r f g) (v : Byte) :
    Moves u (enter f (withByte v 8 r)) (sendByte v) (enter g (withByte 0 0 r)) := by
  have hrun : Moves u (sentBits f g v r 0) (sendByte v) (sentBits f g v r 8) := by
    refine Moves.iterate (m := 8) _ (fun k => wbitSeq (v.getLsbD (7 - k))) fun k hk => ?_
    have hstart : sentBits f g v r k = enter f (withByte (v <<< k) (BitVec.ofNat 4 (8 - k)) r) := by
      rw [sentBits, if_neg (by omega)]
    rw [hstart]
    refine moves_seq ((h.seq _ _).trans (congrArg wbitSeq (testBit_shiftLeft_seven v hk))) rfl nofun
      h.busy h.noPulse fun x w _ => ?_
    rw [h.fin, bitcnt_pred hk, ← BitVec.shiftLeft_add]
    simp only [sentBits, bitcnt_eq_zero_iff (show k + 1 ≤ 8 from hk)]
  rwa [sentBits, sentBits, BitVec.shiftLeft_zero, BitVec.shiftLeft_eq_zero (Nat.le_refl 8)] at hrun

/-! ### The ninth bit of a sent byte -/

/-- The ninth bit b sampled, and ACKF its inverse (R33, R132). -/
def withNinthBit (b : Bool) (s : State) : State := detectAck (sampled b s)

theorem performAll_recvBit_sbit (u : State) : (performAll recvBit u).sbit = u.world.sampleAt u.cfg 0 :=
  performAll_sbit recvBit u

/-- The ACK detector's answer decides where ACK_ADDR leads (R146, R201). -/
theorem finishAckAddr_sampled (b : Bool) (s : State) : finishAckAddr (sampled b s) =
    if b then enterStop .addressNacked (withNinthBit b s)
    else if !s.rw && s.len == 0 then enterStop .ok (withNinthBit b s) else enterData (withNinthBit b s) := by
  cases b <;> rfl

/-- It decides where ACK_DATA of a write leads (R146, R202). -/
theorem finishAckData_sampled (b : Bool) (hw : s.rw = false) : finishAckData (sampled b s) =
    if b then enterStop .dataNacked (withNinthBit b s) else countByte (withNinthBit b s) := by
  have hw' : (sampled b s).rw = false := hw
  rw [finishAckData, hw']
  cases b <;> rfl

section
variable (v : Byte) (b : BitVec 4)

/-- ACK_ADDR. -/
theorem moves_ackAddr : Moves u (enter .ackAddr (withByte v b r)) recvBit
    (if u.world.sampleAt u.cfg 0 then enterStop .addressNacked (withByte v b (withNinthBit true r))
    else if !r.rw && r.len == 0 then enterStop .ok (withByte v b (withNinthBit false r)) else enterData (withNinthBit false r)) := by
  refine moves_seq rfl rfl nofun nofun nofun fun x w hx => ?_
  rw [hx, performAll_recvBit_sbit]
  refine (congrArg (onPort · w) (finishAckAddr_sampled _ (setPhase 3 (enter .ackAddr (withByte v b r))))).trans ?_
  simp only [onPort_ite]
  cases u.world.sampleAt u.cfg 0 <;> rfl

/-- ACK_DATA of a write. -/
theorem moves_ackData_write (hw : r.rw = false) : Moves u (enter .ackData (withByte v b r)) recvBit
    (if u.world.sampleAt u.cfg 0 then enterStop .dataNacked (withByte v b (withNinthBit true r))
    else countByte (withByte v b (withNinthBit false r))) := by
  refine moves_seq (by simp [currentSeq, withByte, hw]; rfl) rfl nofun nofun nofun fun x w hx => ?_
  rw [hx, performAll_recvBit_sbit]
  refine (congrArg (onPort · w) (finishAckData_sampled (s := setPhase 3 (enter .ackData (withByte v b r))) _ hw)).trans ?_
  simp only [onPort_ite, countByte]
  cases u.world.sampleAt u.cfg 0 <;> rfl

end

/-! ### A received byte and its answer -/

/-- The end of a received bit: SHREG takes the sample, and after the eighth bit RXBUF the byte (R142, R146). -/
theorem finishDataBit_received (hw : r.rw = true) (v : Byte) (b : BitVec 4) (p : Nat) (x : Bool) (w : State) :
    onPort (finishDataBit (setPhase p (sampled x (enter .dataPhase (withByte v b r))))) w =
      onPort (if b - 1 = 0
        then enter .ackData (withByte (shiftInBit v x) (b - 1) (writeRx r.bytecnt (shiftInBit v x) r))
        else enter .dataPhase (withByte (shiftInBit v x) (b - 1) r)) w := by
  refine (congrArg (onPort · w) (if_pos hw)).trans ?_
  show onPort (if b - 1 = 0 then _ else _) w = _
  split <;> rfl

/-- The engine after k of the eight bits of a payload byte v are received; a whole byte is stored (R134, R142). -/
def receivedBits (v : Byte) (r : State) (k : Nat) : State :=
  if k = 8 then enter .ackData (withByte (v >>> (8 - k)) (BitVec.ofNat 4 (8 - k)) (writeRx r.bytecnt (v >>> (8 - k)) r))
  else enter .dataPhase (withByte (v >>> (8 - k)) (BitVec.ofNat 4 (8 - k)) r)

/-- Eight bits received, most significant first. -/
theorem moves_recvByte (hw : r.rw = true) :
    Moves u (enter .dataPhase (withByte 0 8 r)) recvByte (enter .ackData (withByte (u.world.byteAt u.cfg 0) 0
      (writeRx r.bytecnt (u.world.byteAt u.cfg 0) r))) := by
  have hrun : Moves u (receivedBits (u.world.byteAt u.cfg 0) r 0) recvByte
      (receivedBits (u.world.byteAt u.cfg 0) r 8) := by
    refine Moves.iterate (m := 8) _ (fun _ => rbitSeq) fun k hk => ?_
    rw [receivedBits, if_neg (by omega)]
    refine moves_seq (by simp [currentSeq, withByte, hw]) rfl nofun nofun nofun fun x w hx => ?_
    have hsample : x = u.world.sampleAt u.cfg (0 + k) := by
      have hbit := performAll_recvBit_sbit (performAll ((List.range k).flatMap fun _ => rbitSeq) u)
      rw [performAll_sampleAt, performAll_cfg, count_sample_flatMap (c := 1) fun _ => rfl, Nat.one_mul] at hbit
      exact hx.trans hbit
    refine (finishDataBit_received hw _ _ _ _ _).trans ?_
    rw [hsample, shiftInBit_byteAt _ _ _ hk, bitcnt_pred hk]
    simp only [receivedBits, bitcnt_eq_zero_iff (show k + 1 ≤ 8 from hk)]
  rwa [receivedBits, receivedBits, if_neg (by decide), if_pos rfl, BitVec.ushiftRight_eq_zero (Nat.le_refl 8),
    BitVec.ushiftRight_zero] at hrun

/-- The ninth bit of a received byte, after which it is counted (R142, R144). -/
theorem moves_answer (v : Byte) (b : BitVec 4) (hw : r.rw = true) :
    Moves u (enter .ackData (withByte v b r)) (sendBit (readAnswer r)) (countByte (withByte v b r)) := by
  refine moves_seq (by simp [currentSeq, withByte, hw]; rfl) rfl nofun nofun nofun fun x w _ => ?_
  have hw' : (setPhase 3 (sampled x (enter .ackData (withByte v b r)))).rw = true := hw
  refine (congrArg (onPort · w) (if_pos hw')).trans ?_
  simp only [countByte, onPort_ite]
  rfl

/-- STOP ends in the response with the status pending (R146, R147). -/
theorem moves_stop (st : Status) : Moves u (enterStop st r) stopLines (respond st (countOf r) 0 (enterStop st r)) := by
  refine moves_seq rfl rfl nofun nofun nofun fun x w _ => ?_
  have hcount : countOf (setPhase 5 (sampled x (enterStop st r))) = countOf r := rfl
  have hregs (c : Byte) (q : State) : onPort (respond st c 0 (setPhase 5 (sampled x q))) w =
      onPort (respond st c 0 q) w := rfl
  rw [← hcount, ← hregs]
  rfl

end Sys2Proof.Machine
end

section
/-! PROOFS. The transfers (R140 to R148) as moves: the address byte, the payload bytes, and the STOP. -/

namespace Sys2Proof.Machine

variable {s t u r r' : State} {i : Instr} {L M : List Line}

/-! ### One byte -/

/-- START, the address byte and its acknowledge (R140). -/
theorem moves_addressLines (hf : r.fsm = .start) (hp : r.phase = 0) : Moves u r (addressLines r.addrb)
    (if u.world.sampleAt u.cfg 0 then enterStop .addressNacked (withByte 0 0 (withNinthBit true r))
    else if !r.rw && r.len == 0 then enterStop .ok (withByte 0 0 (withNinthBit false r)) else enterData (withNinthBit false r)) := by
  have hack := moves_ackAddr (r := r) (u := performAll (startLines ++ sendByte r.addrb) u) 0 0
  rw [performAll_sampleAt, performAll_cfg] at hack
  exact ((moves_start hf hp).trans (moves_sendByte (sendsBits_address r) r.addrb)).trans hack

/-- A payload byte sent and its acknowledge (R141). -/
theorem moves_writeByte (hw : r.rw = false) : Moves u (enterData r) (sendByte (readTx r r.bytecnt) ++ recvBit)
    (if u.world.sampleAt u.cfg 0 then enterStop .dataNacked (withByte 0 0 (withNinthBit true r))
    else countByte (withByte 0 0 (withNinthBit false r))) := by
  have hdata : enterData r = enter .dataPhase (withByte (readTx r r.bytecnt) 8 r) := by
    rw [enterData, hw]
    rfl
  have hack := moves_ackData_write (r := r) (u := performAll (sendByte (readTx r r.bytecnt)) u) 0 0 hw
  rw [performAll_sampleAt, performAll_cfg] at hack
  rw [hdata]
  exact (moves_sendByte (sendsBits_data hw) _).trans hack

/-- A payload byte received and its answer (R142). -/
theorem moves_readByte (hw : r.rw = true) : Moves u (enterData r) (recvByte ++ sendBit (readAnswer r))
    (countByte (withByte (u.world.byteAt u.cfg 0) 0 (writeRx r.bytecnt (u.world.byteAt u.cfg 0) r))) := by
  have hdata : enterData r = enter .dataPhase (withByte 0 8 r) := by
    rw [enterData, hw]
    rfl
  rw [hdata]
  exact (moves_recvByte hw).trans (moves_answer (r := writeRx r.bytecnt (u.world.byteAt u.cfg 0) r) _ 0 hw)

/-! ### Payload bytes counted -/

/-- The registers with k payload bytes counted in BYTECNT (R29). -/
def withCount (k : Nat) (s : State) : State := { s with bytecnt := BitVec.ofNat 8 k }

theorem withCount_bytecnt (n : Byte) (s : State) : (withCount n.toNat s).bytecnt = n :=
  (BitVec.ofNat_toNat 8 n).trans (BitVec.setWidth_eq n)

theorem withCount_self {k : Nat} (h : s.bytecnt = BitVec.ofNat 8 k) : withCount k s = s := by rw [withCount, ← h]

/-- The engine after k payload bytes: STOP when that is LEN, else the next byte (R146). -/
def counted (k : Nat) (s : State) : State :=
  if k = s.len.toNat then enterStop .ok (withCount k s) else enterData (withCount k s)

theorem counted_more {k : Nat} (h : k < s.len.toNat) : counted k s = enterData (withCount k s) := if_neg (by omega)

theorem counted_last {k : Nat} (h : k = s.len.toNat) : counted k s = enterStop .ok (withCount k s) := if_pos h

theorem bytecnt_eq_iff {k : Nat} (n : Byte) (hk : k ≤ n.toNat) : BitVec.ofNat 8 k = n ↔ k = n.toNat := by
  have hn := n.isLt
  rw [← BitVec.toNat_inj, BitVec.toNat_ofNat, Nat.mod_eq_of_lt (by omega)]

theorem countByte_withCount {k : Nat} (h : k < s.len.toNat) : countByte (withCount k s) = counted (k + 1) s := by
  have hadd : addByte (withCount k s) = withCount (k + 1) s := by
    rw [withCount, withCount, BitVec.ofNat_add]
    rfl
  have hlast : (withCount (k + 1) s).bytecnt = (withCount (k + 1) s).len ↔ k + 1 = s.len.toNat :=
    bytecnt_eq_iff s.len h
  simp only [countByte, hadd, hlast]
  rfl

/-! ### The payload of a write -/

/-- The registers between the payload bytes of a write, each byte acknowledged. -/
def writing (r : State) : State := withByte 0 0 (withNinthBit false r)

theorem sendBytes_payload (r : State) (m : Nat) : sendBytes (payload r m) =
    (List.range m).flatMap fun k => sendByte (readTx r (BitVec.ofNat 8 k)) ++ recvBit := by
  simp only [sendBytes, payload, List.flatMap_map]

theorem sendBytes_payload_succ (r : State) (m : Nat) : sendBytes (payload r (m + 1)) =
    sendBytes (payload r m) ++ (sendByte (readTx r (BitVec.ofNat 8 m)) ++ recvBit) := by
  rw [sendBytes_payload, sendBytes_payload, List.range_succ, List.flatMap_append, List.flatMap_singleton]

/-- The first m payload bytes of a write, all acknowledged. -/
theorem moves_writeBytes {m : Nat} (hw : r.rw = false) (hm : m ≤ r.len.toNat)
    (hs : ∀ k, k < m → u.world.sampleAt u.cfg k = false) :
    Moves u (counted 0 (writing r)) (sendBytes (payload r m)) (counted m (writing r)) := by
  rw [sendBytes_payload]
  refine Moves.iterate (fun k => counted k (writing r)) _ fun k hk => ?_
  have hlt : k < (writing r).len.toNat := Nat.lt_of_lt_of_le hk hm
  have hbyte := moves_writeByte (r := withCount k (writing r)) (u := performAll ((List.range k).flatMap fun k =>
    sendByte (readTx r (BitVec.ofNat 8 k)) ++ recvBit) u) hw
  rw [performAll_sampleAt, performAll_cfg, count_sample_flatMap (c := 1) fun _ => rfl, Nat.one_mul, Nat.zero_add,
    hs k hk, if_neg Bool.false_ne_true] at hbyte
  rw [counted_more hlt, ← countByte_withCount hlt]
  exact hbyte

/-- The next payload byte of a write, not acknowledged (R202). -/
theorem moves_writeByte_nacked {k : Nat} (hw : r.rw = false) (hk : k < r.len.toNat)
    (hs : u.world.sampleAt u.cfg 0 = true) :
    Moves u (counted k (writing r)) (sendByte (readTx r (BitVec.ofNat 8 k)) ++ recvBit)
      (enterStop .dataNacked (withByte 0 0 (withNinthBit true (withCount k (writing r))))) := by
  have hbyte := moves_writeByte (r := withCount k (writing r)) (u := u) hw
  rw [hs, if_pos rfl] at hbyte
  rw [counted_more (s := writing r) hk]
  exact hbyte

/-! ### The payload of a read -/

/-- The registers after k payload bytes f of a read: stored in RXBUF from index 0 on, the last in SHREG (R142). -/
def stored (f : Nat → Byte) : Nat → State → State
  | 0, r => r
  | k + 1, r => withByte (f k) 0 (writeRx (BitVec.ofNat 8 k) (f k) (stored f k r))

theorem stored_keeps (f : Nat → Byte) (k : Nat) (r : State) : (stored f k r).len = r.len ∧ (stored f k r).rw = r.rw ∧
    (stored f k r).cur = r.cur ∧ (stored f k r).ackf = r.ackf := by
  induction k with
  | zero => exact ⟨rfl, rfl, rfl, rfl⟩
  | succ k ih => exact ih

theorem toNat_ofNat_byte {k : Nat} (hk : k < 256) : (BitVec.ofNat 8 k).toNat = k := by
  rw [BitVec.toNat_ofNat, Nat.mod_eq_of_lt hk]

/-- The stored bytes are read back, and every other entry of RXBUF is kept. -/
theorem readRx_stored (f : Nat → Byte) (r : State) {k : Nat} (hk : k ≤ 256) (j : Byte) :
    readRx (stored f k r) j = if j.toNat < k then f j.toNat else readRx r j := by
  induction k with
  | zero => rfl
  | succ k ih =>
    have hnat : (BitVec.ofNat 8 k).toNat = k := toNat_ofNat_byte (by omega)
    show readRx (writeRx (BitVec.ofNat 8 k) (f k) (stored f k r)) j = _
    by_cases hj : j = BitVec.ofNat 8 k
    · subst hj
      rw [readRx_writeRx_same, hnat, if_pos (Nat.lt_succ_self k)]
    · have hne : j.toNat ≠ k := fun e => hj (BitVec.eq_of_toNat_eq (e.trans hnat.symm))
      rw [readRx_writeRx_other _ _ _ _ hj, ih (by omega)]
      simp only [Nat.lt_succ_iff, Nat.le_iff_lt_or_eq, hne, or_false]

/-- The master's answer is NACK on the final byte alone (R142, R144). -/
theorem readAnswer_withCount {k : Nat} (h : k < s.len.toNat) : readAnswer (withCount k s) = (k + 1 == s.len.toNat) := by
  have hk := s.len.isLt
  rw [Bool.eq_iff_iff, beq_iff_eq]
  show (BitVec.ofNat 8 k == s.len - 1) = true ↔ _
  rw [beq_iff_eq]
  bv_omega

/-- The payload of a read. -/
theorem moves_readBytes (hw : r.rw = true) {m : Nat} (hm : m ≤ r.len.toNat) :
    Moves u (counted 0 r) ((List.range m).flatMap fun k => recvByte ++ sendBit (k + 1 == r.len.toNat))
      (counted m (stored (fun k => u.world.byteAt u.cfg (8 * k)) m r)) := by
  generalize hf : (fun k => u.world.byteAt u.cfg (8 * k)) = f
  refine Moves.iterate (fun k => counted k (stored f k r)) _ fun k hk => ?_
  obtain ⟨hlen, hrw, -, -⟩ := stored_keeps f k r
  have hlt : k < (stored f k r).len.toNat := by rw [hlen]; omega
  have hlt' : k < (stored f (k + 1) r).len.toNat := hlt
  have hbyte := moves_readByte (r := withCount k (stored f k r)) (u := performAll ((List.range k).flatMap fun k =>
    recvByte ++ sendBit (k + 1 == r.len.toNat)) u) (hrw.trans hw)
  rw [performAll_byteAt, performAll_cfg, count_sample_flatMap (c := 8) fun _ => rfl, Nat.zero_add,
    readAnswer_withCount hlt, hlen, congrFun hf k] at hbyte
  rw [counted_more hlt, ← countByte_withCount hlt']
  exact hbyte

end Sys2Proof.Machine
end

section
/-! PROOFS. How a transfer ends when all its primitives are done (R141, R142, R201, R202), and the claims about its
response, its registers and its buffers. -/

namespace Sys2Proof.Machine

variable {s t u r r' : State} {i : Instr} {L M : List Line}

/-! ### Registers at the port after line steps -/

theorem linesBetween_onPort (r s : State) (L : List Line) :
    linesBetween s (onPort r (performAll L s)) = L.map some := by
  obtain ⟨es, htr, hline⟩ := performAll_trace L s
  rw [linesBetween, eventsBetween_of_trace (t := onPort r (performAll L s)) htr, hline]

theorem lineState_onPort (hl : s.cfg.legal = true) (ha : L.all (!·.isAux) = true) :
    (onPort r (performAll L s)).lineState = L.foldl Line.drive s.lineState := lineState_performAll hl ha

theorem symbols_onPort (r s : State) (L : List Line) :
    symbols s.cfg s.lineState (eventsBetween s (onPort r (performAll L s))) =
      symbols s.cfg s.lineState (lineEvents s.world.inAt L) := by
  obtain ⟨es, htr, -, hread⟩ := readWire_performAll L s
  rw [eventsBetween_of_trace (t := onPort r (performAll L s)) htr]
  exact hread _ _

/-! ### The line steps of a transfer -/

theorem all_not_aux_sendBytes (bs : List Byte) : (sendBytes bs).all (!·.isAux) = true := by
  rw [sendBytes, List.all_flatMap]
  exact List.all_eq_true.mpr fun _ _ => rfl

theorem all_not_aux_recvBytes (n : Nat) : (recvBytes n).all (!·.isAux) = true := by
  rw [recvBytes, List.all_flatMap]
  exact List.all_eq_true.mpr fun _ _ => rfl

theorem length_sendBytes (bs : List Byte) : (sendBytes bs).length = 36 * bs.length := by
  induction bs with
  | nil => rfl
  | cons b bs ih =>
    rw [sendBytes, List.flatMap_cons, List.length_append]
    show 36 + (sendBytes bs).length = _
    rw [ih, List.length_cons]
    omega

theorem count_sample_sendBytes (bs : List Byte) : (sendBytes bs).count .sample = bs.length := by
  induction bs with
  | nil => rfl
  | cons b bs ih =>
    rw [sendBytes, List.flatMap_cons, List.count_append]
    show 1 + (sendBytes bs).count .sample = _
    rw [ih, List.length_cons]
    omega

theorem length_recvBytes (n : Nat) : (recvBytes n).length = 36 * n := by
  have h : ∀ m k : Nat, (recvByte ++ sendBit (k + 1 == m)).length = 36 := fun _ _ => rfl
  simp only [recvBytes, List.length_flatMap, h]
  simp [Nat.mul_comm]

theorem count_sample_recvBytes (n : Nat) : (recvBytes n).count .sample = 8 * n :=
  count_sample_flatMap (c := 8) (fun _ => rfl) n

theorem length_payload (r : State) (m : Nat) : (payload r m).length = m := by
  rw [payload, List.length_map, List.length_range]

/-- The address byte is sent as a payload byte is. -/
theorem addressLines_append_sendBytes (a : Byte) (bs : List Byte) :
    addressLines a ++ sendBytes bs = startLines ++ sendBytes (a :: bs) := by
  simp only [addressLines, sendBytes, List.flatMap_cons, List.append_assoc]

/-! ### The end of a transfer -/

/-- A transfer over: the line steps L and STOP performed, the response with the status st and the count of r. -/
def transferEnd (st : Status) (r : State) (L : List Line) (s : State) : State :=
  onPort (respond st r.bytecnt 0 (enterStop st r)) (performAll (L ++ stopLines) s)

/-- What it leaves in the registers: those of r, but for the response and ERR. -/
theorem transferEnd_regs (st : Status) (r : State) (L : List Line) (s : State) :
    (transferEnd st r L s).fsm = .idle ∧ (transferEnd st r L s).rsp = some (response st r.bytecnt 0) ∧
    (transferEnd st r L s).err = st.code ∧ (transferEnd st r L s).bytecnt = r.bytecnt ∧
    (transferEnd st r L s).ackf = r.ackf :=
  ⟨rfl, rfl, rfl, rfl, rfl⟩

theorem readRx_transferEnd (st : Status) (r : State) (L : List Line) (s : State) (j : Byte) :
    readRx (transferEnd st r L s) j = readRx r j := rfl

/-- The commands XFER.W and XFER.R that some word encodes (R92). -/
def IsTransfer (i : Instr) : Prop := ∃ addr n, i = .xferW addr n ∨ (i = .xferR addr n ∧ n ≠ 0)

theorem entry_transfer (s : State) (hi : IsTransfer i) : (entry s i).fsm = .start ∧ (entry s i).phase = 0 ∧
    (entry s i).cur = some i ∧ onPort (entry s i) s = entry s i := by
  obtain ⟨addr, n, rfl | ⟨rfl, hn⟩⟩ := hi
  · exact ⟨rfl, rfl, rfl, rfl⟩
  · rw [entry, if_neg hn]
    exact ⟨rfl, rfl, rfl, rfl⟩

/-- A transfer whose moves lead to STOP ends there (R147, R148). -/
theorem exec_transfer (hs : s.fsm = .idle) (hi : IsTransfer i) (h : Moves s (entry s i) L (enterStop st r))
    (hc : r.cur = some i) (hd : s.world.AllDone (L.length + 6)) (hlen : L.length + 6 ≤ Config.maxPrimitives) :
    exec i s = .next (transferEnd st r L s) := by
  obtain ⟨-, -, -, hport⟩ := entry_transfer s hi
  have hlen' : (L ++ stopLines).length = L.length + 6 := List.length_append
  have hcount : countOf r = r.bytecnt := by
    obtain ⟨addr, n, rfl | ⟨rfl, -⟩⟩ := hi <;> simp [countOf, hc]
  have hrun := exec_of_moves hs hport (h.trans (moves_stop st)) rfl (hlen' ▸ hd) (hlen' ▸ hlen)
  rwa [hcount] at hrun

/-- STOP drives every line state to the idle one (R122). -/
theorem drive_stopLines (x : Bool × Bool × Bool) : stopLines.foldl Line.drive x = idleLine := by
  obtain ⟨_ | _, _ | _, _ | _⟩ := x <;> rfl

theorem transferEnd_atIdleLine (st : Status) (r : State) (hl : s.cfg.legal = true) (ha : L.all (!·.isAux) = true) :
    (transferEnd st r L s).atIdleLine := by
  have haux : (L ++ stopLines).all (!·.isAux) = true := by
    rw [List.all_append, ha]
    rfl
  rw [State.atIdleLine, transferEnd, lineState_onPort hl haux, List.foldl_append, drive_stopLines]

theorem transferEnd_sbit (st : Status) (r : State) {c : Nat} (hc : L.count .sample = c + 1) :
    (transferEnd st r L s).sbit = s.world.sampleAt s.cfg c := by
  have hcount : (L ++ stopLines).count .sample = c + 1 := by
    rw [List.count_append, hc]
    rfl
  exact (performAll_sbit (L ++ stopLines) s).trans (by rw [hcount]; rfl)

/-! ### The write -/

theorem lines_write (addr : BitVec 7) (bs : List Byte) :
    (addressLines (addressByte addr false) ++ sendBytes bs).length = 41 + 36 * bs.length ∧
    (addressLines (addressByte addr false) ++ sendBytes bs).count .sample = 1 + bs.length ∧
    (addressLines (addressByte addr false) ++ sendBytes bs).all (!·.isAux) = true := by
  rw [List.length_append, List.count_append, List.all_append, length_sendBytes, count_sample_sendBytes,
    all_not_aux_sendBytes]
  exact ⟨rfl, rfl, rfl⟩

/-- An address that is not acknowledged (R201). -/
theorem exec_transfer_addressNacked (hs : s.Ready) (hi : IsTransfer i) (hd : s.world.AllDone 47)
    (hack : s.world.sampleAt s.cfg 0 = true) : exec i s = .next (transferEnd .addressNacked
      (withByte 0 0 (withNinthBit true (entry s i))) (addressLines (entry s i).addrb) s) := by
  obtain ⟨hf, hp, hc, -⟩ := entry_transfer s hi
  have haddr := moves_addressLines (u := s) hf hp
  rw [hack, if_pos rfl] at haddr
  exact exec_transfer hs.idle hi haddr hc hd (show 41 + 6 ≤ Config.maxPrimitives by decide)

/-- The acknowledged address of a write (R141). -/
theorem moves_writeAddress (s : State) (addr : BitVec 7) (n : Byte) (hack : s.world.sampleAt s.cfg 0 = false) :
    Moves s (entry s (.xferW addr n)) (addressLines (addressByte addr false))
      (counted 0 (writing (entry s (.xferW addr n)))) := by
  have haddr := moves_addressLines (u := s) (r := entry s (.xferW addr n)) rfl rfl
  rw [hack, if_neg Bool.false_ne_true] at haddr
  by_cases hn : n = 0
  · subst hn
    exact haddr
  · have hlen : 0 < (writing (entry s (.xferW addr n))).len.toNat := by
      show 0 < n.toNat
      bv_omega
    have hmore : (!(entry s (.xferW addr n)).rw && (entry s (.xferW addr n)).len == 0) = false := by
      show (true && n == 0) = false
      simpa using hn
    rw [if_neg (by rw [hmore]; exact Bool.false_ne_true)] at haddr
    rw [counted_more hlen]
    exact haddr

/-- A write up to its m-th payload byte, every byte acknowledged (R141). -/
theorem moves_write {addr : BitVec 7} {n : Byte} {m : Nat} (hm : m ≤ n.toNat)
    (hack : ∀ k, k ≤ m → s.world.sampleAt s.cfg k = false) :
    Moves s (entry s (.xferW addr n)) (addressLines (addressByte addr false) ++ sendBytes (payload s m))
      (counted m (writing (entry s (.xferW addr n)))) := by
  refine (moves_writeAddress s addr n (hack 0 (by omega))).trans ?_
  refine moves_writeBytes (r := entry s (.xferW addr n)) rfl hm fun k hk => ?_
  rw [performAll_sampleAt, performAll_cfg]
  exact hack (k + 1) (by omega)

/-- A write with every byte acknowledged (R141). -/
theorem exec_xferW_acked {addr : BitVec 7} {n : Byte} (hs : s.Ready) (hd : s.world.AllDone (47 + 36 * n.toNat))
    (hack : ∀ k, k ≤ n.toNat → s.world.sampleAt s.cfg k = false) :
    exec (.xferW addr n) s = .next (transferEnd .ok (withCount n.toNat (writing (entry s (.xferW addr n))))
      (addressLines (addressByte addr false) ++ sendBytes (payload s n.toNat)) s) := by
  obtain ⟨hlen, -⟩ := lines_write addr (payload s n.toNat)
  rw [length_payload] at hlen
  have hn := n.isLt
  have hmoves := moves_write (addr := addr) (Nat.le_refl n.toNat) hack
  rw [counted_last (k := n.toNat) (s := writing (entry s (.xferW addr n))) rfl] at hmoves
  exact exec_transfer hs.idle ⟨addr, n, .inl rfl⟩ hmoves rfl (hd.mono (by omega))
    (by rw [hlen, Config.maxPrimitives]; omega)

/-- A write whose c-th payload byte is not acknowledged (R202). -/
theorem exec_xferW_nacked {addr : BitVec 7} {n : Byte} {c : Nat} (hs : s.Ready) (hc : c < n.toNat)
    (hd : s.world.AllDone (47 + 36 * (c + 1))) (hack : ∀ k, k ≤ c → s.world.sampleAt s.cfg k = false)
    (hnack : s.world.sampleAt s.cfg (c + 1) = true) :
    exec (.xferW addr n) s = .next (transferEnd .dataNacked
      (withByte 0 0 (withNinthBit true (withCount c (writing (entry s (.xferW addr n))))))
      (addressLines (addressByte addr false) ++ sendBytes (payload s (c + 1))) s) := by
  obtain ⟨hlen, -⟩ := lines_write addr (payload s (c + 1))
  obtain ⟨-, hcount, -⟩ := lines_write addr (payload s c)
  rw [length_payload] at hlen hcount
  have hn := n.isLt
  have hlast := moves_writeByte_nacked (u := performAll (addressLines (addressByte addr false) ++
    sendBytes (payload s c)) s) (r := entry s (.xferW addr n)) (k := c) rfl hc
    (by rw [performAll_sampleAt, performAll_cfg, hcount, Nat.zero_add, Nat.add_comm]; exact hnack)
  have hmoves := (moves_write (addr := addr) hc.le hack).trans hlast
  have hbuf : readTx (entry s (.xferW addr n)) (BitVec.ofNat 8 c) = readTx s (BitVec.ofNat 8 c) := rfl
  rw [hbuf, List.append_assoc, ← sendBytes_payload_succ] at hmoves
  exact exec_transfer hs.idle ⟨addr, n, .inl rfl⟩ hmoves rfl (hd.mono (by omega))
    (by rw [hlen, Config.maxPrimitives]; omega)

/-! ### The read -/

theorem lines_read (addr : BitVec 7) (n : Nat) :
    (addressLines (addressByte addr true) ++ recvBytes n).length = 41 + 36 * n ∧
    (addressLines (addressByte addr true) ++ recvBytes n).count .sample = 1 + 8 * n ∧
    (addressLines (addressByte addr true) ++ recvBytes n).all (!·.isAux) = true := by
  rw [List.length_append, List.count_append, List.all_append, length_recvBytes, count_sample_recvBytes,
    all_not_aux_recvBytes]
  exact ⟨rfl, rfl, rfl⟩

/-- The registers of a read with all its bytes received (R142). -/
def readingDone (u r : State) : State :=
  withCount r.len.toNat (stored (fun k => u.world.byteAt u.cfg (8 * k + 1)) r.len.toNat (withNinthBit false r))

/-- A whole read up to its STOP (R142). -/
theorem moves_read (hf : r.fsm = .start) (hp : r.phase = 0) (hw : r.rw = true) (hlen : r.len ≠ 0)
    (hb : r.bytecnt = 0) (hack : u.world.sampleAt u.cfg 0 = false) :
    Moves u r (addressLines r.addrb ++ recvBytes r.len.toNat) (enterStop .ok (readingDone u r)) := by
  have haddr := moves_addressLines (u := u) hf hp
  have hmore : (!r.rw && r.len == 0) = false := by simp [hw]
  have hpos : 0 < (withNinthBit false r).len.toNat := by
    show 0 < r.len.toNat
    bv_omega
  have hzero : withCount 0 (withNinthBit false r) = withNinthBit false r := withCount_self hb
  rw [hack, if_neg Bool.false_ne_true, hmore, if_neg Bool.false_ne_true, ← hzero, ← counted_more hpos] at haddr
  refine haddr.trans ?_
  have hdone := moves_readBytes (u := performAll (addressLines r.addrb) u) (r := withNinthBit false r) hw
    (m := r.len.toNat) (Nat.le_refl _)
  have hlast : counted r.len.toNat (stored (fun k => u.world.byteAt u.cfg (8 * k + 1)) r.len.toNat (withNinthBit false r)) =
      enterStop .ok (readingDone u r) := counted_last (congrArg BitVec.toNat (stored_keeps _ _ (withNinthBit false r)).1.symm)
  simp only [performAll_byteAt, performAll_cfg] at hdone
  rw [← hlast]
  exact hdone

/-- A read with the address acknowledged (R142). -/
theorem exec_xferR_acked {addr : BitVec 7} {n : Byte} (hs : s.Ready) (hn : n ≠ 0)
    (hd : s.world.AllDone (47 + 36 * n.toNat)) (hack : s.world.sampleAt s.cfg 0 = false) :
    exec (.xferR addr n) s = .next (transferEnd .ok (readingDone s (entry s (.xferR addr n)))
      (addressLines (addressByte addr true) ++ recvBytes n.toNat) s) := by
  have hi : IsTransfer (.xferR addr n) := ⟨addr, n, .inr ⟨rfl, hn⟩⟩
  obtain ⟨hlen, -⟩ := lines_read addr n.toNat
  have hlt := n.isLt
  have hentry : entry s (.xferR addr n) = latchTransfer addr true n (accept (.xferR addr n) .start s) := if_neg hn
  have hmoves := moves_read (u := s) (r := entry s (.xferR addr n)) (by rw [hentry]; rfl) (by rw [hentry]; rfl)
    (by rw [hentry]; rfl) (by rw [hentry]; exact hn) (by rw [hentry]; rfl) hack
  obtain ⟨-, -, hstored, -⟩ := stored_keeps (fun k => s.world.byteAt s.cfg (8 * k + 1)) (entry s (.xferR addr n)).len.toNat
    (withNinthBit false (entry s (.xferR addr n)))
  have hcur : (readingDone s (entry s (.xferR addr n))).cur = some (.xferR addr n) :=
    hstored.trans (by rw [hentry]; rfl)
  have hlines : addressLines (entry s (.xferR addr n)).addrb ++ recvBytes (entry s (.xferR addr n)).len.toNat =
      addressLines (addressByte addr true) ++ recvBytes n.toNat := by rw [hentry]; rfl
  rw [hlines] at hmoves
  exact exec_transfer hs.idle hi hmoves hcur (hd.mono (by omega)) (by rw [hlen, Config.maxPrimitives]; omega)

end Sys2Proof.Machine
end

section
/-! PROOFS. The claims about a transfer's primitives, response, registers and buffers (R141, R142). -/

namespace Sys2Proof.Machine

variable {s t u r r' : State} {i : Instr} {L M : List Line}

theorem linesBetween_transferEnd (st : Status) (r : State) (L : List Line) (s : State) :
    linesBetween s (transferEnd st r L s) = (L ++ stopLines).map some := linesBetween_onPort _ s _

theorem symbols_transferEnd (st : Status) (r : State) (L : List Line) (s : State) :
    symbols s.cfg s.lineState (eventsBetween s (transferEnd st r L s)) =
      symbols s.cfg s.lineState (lineEvents s.world.inAt (L ++ stopLines)) := symbols_onPort _ s _

/-- A transfer stores TXBUF nowhere, and RXBUF only in a read, below its length (R39). -/
theorem transfer_buffers (hi : IsTransfer i) (h : exec i s = .next t) :
    (∀ j, readTx t j = readTx s j) ∧
    ∀ j, readRx t j = readRx s j ∨ ∃ addr n, i = .xferR addr n ∧ j.toNat < n.toNat := by
  refine ⟨fun j => (exec_readTx h j).resolve_right ?_, exec_readRx h⟩
  obtain ⟨addr, n, rfl | ⟨rfl, -⟩⟩ := hi <;> exact nofun

/-- Settles O21: the write ends as `exec_xferW_acked` says; its last sample is the acknowledge of its last byte. -/
theorem writeTransferSendsTheBuffer : Obligations.WriteTransferSendsTheBuffer := by
  unfold Obligations.WriteTransferSendsTheBuffer
  intro s addr n hs hd hack
  have hrun := exec_xferW_acked (addr := addr) hs hd hack
  obtain ⟨-, hcount, haux⟩ := lines_write addr (payload s n.toNat)
  rw [length_payload, Nat.add_comm] at hcount
  obtain ⟨htx, hrx⟩ := transfer_buffers ⟨addr, n, .inl rfl⟩ hrun
  obtain ⟨hidle, hrsp, herr, hcnt, hackf⟩ := transferEnd_regs .ok (withCount n.toNat (writing (entry s (.xferW addr n))))
    (addressLines (addressByte addr false) ++ sendBytes (payload s n.toNat)) s
  rw [withCount_bytecnt] at hrsp hcnt
  refine ⟨_, hrun, linesBetween_transferEnd .., hidle, hrsp, herr, hcnt, hackf, ?_,
    transferEnd_atIdleLine _ _ hs.legal haux, htx, fun j => (hrx j).resolve_right nofun⟩
  rw [transferEnd_sbit _ _ hcount]
  exact hack _ (Nat.le_refl _)

/-- The registers and RXBUF of a read with all its bytes received. -/
theorem readingDone_regs (s r : State) : (readingDone s r).bytecnt = r.len ∧ (readingDone s r).ackf = true ∧
    ∀ j : Byte, readRx (readingDone s r) j =
      if j.toNat < r.len.toNat then s.world.byteAt s.cfg (8 * j.toNat + 1) else readRx r j := by
  obtain ⟨-, -, -, hack⟩ := stored_keeps (fun k => s.world.byteAt s.cfg (8 * k + 1)) r.len.toNat (withNinthBit false r)
  exact ⟨withCount_bytecnt r.len _, hack, readRx_stored _ (withNinthBit false r) r.len.isLt.le⟩

/-- Below its length a read leaves the sampled bytes in RXBUF (R142). -/
theorem readRx_readEnd {addr : BitVec 7} {n : Byte} (hn : n ≠ 0) {k : Nat} (hk : k < n.toNat) :
    readRx (transferEnd .ok (readingDone s (entry s (.xferR addr n))) L s) (BitVec.ofNat 8 k) =
      s.world.byteAt s.cfg (8 * k + 1) := by
  obtain ⟨-, -, hread⟩ := readingDone_regs s (entry s (.xferR addr n))
  have hlen : (entry s (.xferR addr n)).len = n := by rw [entry, if_neg hn]; rfl
  have hnat : (BitVec.ofNat 8 k).toNat = k := toNat_ofNat_byte (hk.trans n.isLt)
  rw [readRx_transferEnd, hread, hlen, hnat, if_pos hk]

/-- Settles O22: the read ends as `exec_xferR_acked` says; n = 0 is answered ILLEGAL_CMD. -/
theorem readTransferStoresTheSampledBytes : Obligations.ReadTransferStoresTheSampledBytes := by
  unfold Obligations.ReadTransferStoresTheSampledBytes
  refine ⟨fun s addr => rfl, fun s addr n hs hn hd hack => ?_⟩
  have hrun := exec_xferR_acked (addr := addr) hs hn hd hack
  obtain ⟨-, hcount, haux⟩ := lines_read addr n.toNat
  rw [Nat.add_comm] at hcount
  obtain ⟨htx, hrx⟩ := transfer_buffers ⟨addr, n, .inr ⟨rfl, hn⟩⟩ hrun
  have hlen : (entry s (.xferR addr n)).len = n := by rw [entry, if_neg hn]; rfl
  obtain ⟨hidle, hrsp, herr, hcnt, hackf⟩ := transferEnd_regs .ok (readingDone s (entry s (.xferR addr n)))
    (addressLines (addressByte addr true) ++ recvBytes n.toNat) s
  obtain ⟨hcnt', hackf', -⟩ := readingDone_regs s (entry s (.xferR addr n))
  rw [hcnt', hlen] at hrsp hcnt
  refine ⟨_, hrun, linesBetween_transferEnd .., hidle, hrsp, herr, hcnt, hackf.trans hackf',
    transferEnd_sbit _ _ hcount, transferEnd_atIdleLine _ _ hs.legal haux, fun k hk => ?_,
    fun j hj => (hrx j).resolve_right ?_, htx⟩
  · rw [readRx_readEnd hn hk, Nat.add_comm]
  · rintro ⟨addr', n', heq, hlt⟩
    obtain ⟨-, rfl⟩ : addr = addr' ∧ n = n' := by simpa using heq
    omega

end Sys2Proof.Machine
end

section
/-! PROOFS. The bus symbols of the transfers (R12, R144, R145), read off their line steps. -/

namespace Sys2Proof.Machine

variable {s t : State}

section
variable (c : Config) (f : Nat → Byte) (L : List Line)

/-- START, read from any line state with nothing pending (R121). -/
theorem readWire_startLines (x : Bool × Bool × Bool) :
    readWire c ⟨x.1, x.2.1, x.2.2, none⟩ (lineEvents f (startLines ++ L)) =
      (if x = (true, false, true) then [Symbol.P] else []) ++ [Symbol.S] ++
        readWire c ⟨false, false, true, none⟩ (lineEvents f L) := by
  obtain ⟨_ | _, _ | _, _ | _⟩ := x <;> rfl

/-- STOP, from SCL = 0 (R122). -/
theorem readWire_stopLines (d o : Bool) : readWire c ⟨false, d, o, none⟩ (lineEvents f stopLines) = [Symbol.P] :=
  symbols_stopSeq c (false, d, o) f

/-- Sent bytes that are all acknowledged, from SCL = 0 (R145). -/
theorem readWire_sendBytes (bs : List Byte) (d o : Bool)
    (hack : ∀ k, k < bs.length → testBit (f k) c.sdaBit = false) :
    ∃ d' o', readWire c ⟨false, d, o, none⟩ (lineEvents f (sendBytes bs ++ L)) =
      (bs.flatMap fun b => (bitsOf b).map Symbol.M ++ [Symbol.Zs false]) ++
        readWire c ⟨false, d', o', none⟩ (lineEvents (fun k => f (k + bs.length)) L) := by
  induction bs generalizing f d o with
  | nil => exact ⟨d, o, rfl⟩
  | cons b bs ih =>
    obtain ⟨d₁, o₁, hbits⟩ := readWire_sendBits c f (recvBit ++ (sendBytes bs ++ L)) (bitsOf b) d o
    obtain ⟨d₂, o₂, hrest⟩ := ih (fun k => f (k + 1)) d₁ false fun k hk => hack (k + 1) (Nat.succ_lt_succ hk)
    refine ⟨d₂, o₂, ?_⟩
    have hlines : sendBytes (b :: bs) ++ L = (bitsOf b).flatMap sendBit ++ (recvBit ++ (sendBytes bs ++ L)) := by
      simp only [sendBytes, sendByte, List.flatMap_cons, List.append_assoc]
    rw [hlines, hbits, readWire_recvBit, hack 0 (Nat.succ_pos _), hrest, List.flatMap_cons, List.append_assoc,
      List.append_assoc]
    rfl

/-- A received byte, from SCL = 0: the samples from the p-th on (R134). -/
theorem readWire_recvByte (w : World) (p : Nat) (d o : Bool) :
    ∃ o', readWire c ⟨false, d, o, none⟩ (lineEvents (fun k => w.inAt (k + p)) (recvByte ++ L)) =
      (bitsOf (w.byteAt c p)).map Symbol.Zs ++
        readWire c ⟨false, d, o', none⟩ (lineEvents (fun k => w.inAt (k + (p + 8))) L) := by
  obtain ⟨o', h⟩ := readWire_recvBits c (fun k => w.inAt (k + p)) L 8 d o
  refine ⟨o', ?_⟩
  have hoff (k : Nat) : k + 8 + p = k + (p + 8) := by omega
  simp only [hoff] at h
  rw [recvByte, h, bitsOf_byteAt, List.map_map]
  simp only [Function.comp_def, World.sampleAt, Nat.add_comm p]

/-- Received bytes with the master's answers, from SCL = 0 (R144, R145). -/
theorem readWire_recvBytes (w : World) (p m : Nat) (a : Nat → Bool) (d o : Bool) :
    ∃ d' o', readWire c ⟨false, d, o, none⟩ (lineEvents (fun k => w.inAt (k + p))
        (((List.range m).flatMap fun k => recvByte ++ sendBit (a k)) ++ L)) =
      ((List.range m).flatMap fun k => (bitsOf (w.byteAt c (8 * k + p))).map Symbol.Zs ++ [Symbol.M (a k)]) ++
        readWire c ⟨false, d', o', none⟩ (lineEvents (fun k => w.inAt (k + (8 * m + p))) L) := by
  induction m generalizing p a d o with
  | zero => exact ⟨d, o, by simp⟩
  | succ m ih =>
    obtain ⟨o₁, hbits⟩ := readWire_recvByte c (sendBit (a 0) ++
      (((List.range m).flatMap fun k => recvByte ++ sendBit (a (k + 1))) ++ L)) w p d o
    obtain ⟨d₂, o₂, hrest⟩ := ih (p + 8) (fun k => a (k + 1)) (a 0) true
    refine ⟨d₂, o₂, ?_⟩
    have hoff (k : Nat) : 8 * (k + 1) + p = 8 * k + (p + 8) := by omega
    rw [List.range_succ_eq_map, List.flatMap_cons, List.flatMap_map, List.flatMap_cons, List.flatMap_map,
      List.append_assoc, List.append_assoc, hbits, readWire_sendBit, hrest, Nat.mul_zero, Nat.zero_add]
    simp only [Nat.succ_eq_add_one, hoff, List.append_assoc, List.cons_append, List.nil_append]

variable (x : Bool × Bool × Bool) (a : Byte)

/-- A write with every byte acknowledged, from any line state with nothing pending (R145). -/
theorem symbols_write (bs : List Byte) (hack : ∀ k, k ≤ bs.length → testBit (f k) c.sdaBit = false) :
    symbols c x (lineEvents f (addressLines a ++ sendBytes bs ++ stopLines)) =
      (if x = (true, false, true) then [Symbol.P] else []) ++ [Symbol.S] ++ (bitsOf a).map Symbol.M ++ [Symbol.Zs false] ++
        (bs.flatMap fun b => (bitsOf b).map Symbol.M ++ [Symbol.Zs false]) ++ [Symbol.P] := by
  obtain ⟨d, o, hbytes⟩ := readWire_sendBytes c f stopLines (a :: bs) false true fun k hk =>
    hack k (Nat.le_of_lt_succ hk)
  rw [addressLines_append_sendBytes, List.append_assoc, symbols, readWire_startLines, hbytes, readWire_stopLines]
  simp only [List.flatMap_cons, List.append_assoc]

/-- A read with the address acknowledged, from any line state with nothing pending (R144, R145). -/
theorem symbols_read (w : World) (n : Nat) (hack : w.sampleAt c 0 = false) :
    symbols c x (lineEvents w.inAt (addressLines a ++ recvBytes n ++ stopLines)) =
      (if x = (true, false, true) then [Symbol.P] else []) ++ [Symbol.S] ++ (bitsOf a).map Symbol.M ++ [Symbol.Zs false] ++
        ((List.range n).flatMap fun k => (bitsOf (w.byteAt c (8 * k + 1))).map Symbol.Zs ++ [Symbol.M (k + 1 == n)]) ++
        [Symbol.P] := by
  have hlines : addressLines a ++ recvBytes n ++ stopLines =
      startLines ++ (sendBytes [a] ++ (recvBytes n ++ stopLines)) := by
    simp only [addressLines, sendBytes, List.flatMap_cons, List.flatMap_nil, List.append_assoc, List.append_nil]
  obtain ⟨d, o, haddr⟩ := readWire_sendBytes c w.inAt (recvBytes n ++ stopLines) [a] false true fun k hk => by
    obtain rfl : k = 0 := by simpa using hk
    exact hack
  obtain ⟨d', o', hbytes⟩ := readWire_recvBytes c stopLines w 1 n (fun k => k + 1 == n) d o
  rw [← recvBytes] at hbytes
  rw [hlines, symbols, readWire_startLines, haddr, List.length_singleton, hbytes, readWire_stopLines]
  simp only [List.flatMap_cons, List.flatMap_nil, List.append_assoc, List.append_nil]

end

/-- Settles O27: the line steps of `exec_xferW_acked`, as the wire reads them. -/
theorem writeTransferSymbols : Obligations.WriteTransferSymbols := by
  unfold Obligations.WriteTransferSymbols
  intro s t addr n hs hd hack h
  obtain rfl := Host.Outcome.next.inj ((exec_xferW_acked hs hd hack).symm.trans h)
  rw [symbols_transferEnd, symbols_write]
  rwa [length_payload]

/-- Settles O28: the line steps of `exec_xferR_acked`, as the wire reads them; the received bytes are those in RXBUF. -/
theorem readTransferSymbols : Obligations.ReadTransferSymbols := by
  unfold Obligations.ReadTransferSymbols
  intro s t addr n hs hn hd hack h
  obtain rfl := Host.Outcome.next.inj ((exec_xferR_acked hs hn hd hack).symm.trans h)
  rw [symbols_transferEnd, symbols_read _ _ _ _ _ hack]
  congr 2
  exact List.flatMap_congr fun k hk => by rw [readRx_readEnd hn (List.mem_range.mp hk)]

end Sys2Proof.Machine
end

section
/-! PROOFS. The transfers and the single-step programs (R149): both leave the port as the same line steps leave it. -/

namespace Sys2Proof.Machine

variable {s t u : State} {i : Instr} {L M : List Line} {r : Word}

/-! ### The port alone -/

/-- The port of a state: configuration, PORT_OUT, PORT_DIR, SBIT, trace and inputs, every other register blanked out. -/
def portOf (s : State) : State := onPort State.reset s

theorem portOf_performAll (L : List Line) (s : State) : portOf (performAll L s) = performAll L (portOf s) :=
  (performAll_onPort L State.reset s).symm

/-- The end of a sub-sequence leaves the port alone. -/
theorem SameOutside.portOf (h : SameOutside s t) : portOf t = portOf s := by
  simp only [Machine.portOf, onPort, h.cfg, h.portOut, h.portDir, h.sbit, h.trace, h.world]

/-- A program that has performed the line steps L, its last response taken. -/
structure Leads (L : List Line) (s t : State) : Prop where
  ready : t.Ready
  port : portOf t = performAll L (portOf s)

theorem Leads.refl (hs : s.Ready) : Leads [] s s := ⟨hs, rfl⟩

theorem Leads.trans (h : Leads L s t) (h' : Leads M t u) : Leads (L ++ M) s u :=
  ⟨h'.ready, by rw [h'.port, h.port, performAll_append]⟩

theorem Leads.inputs (h : Leads L s t) : t.cfg = s.cfg ∧ t.world = (performAll L s).world := by
  have hport : portOf t = portOf (performAll L s) := h.port.trans (portOf_performAll L s).symm
  have key {α : Type} (f : State → α) : f (portOf t) = f (portOf (performAll L s)) := congrArg f hport
  exact ⟨(key (·.cfg)).trans (performAll_cfg L s), key (·.world)⟩

theorem Leads.sampleAt (h : Leads L s t) (k : Nat) :
    t.world.sampleAt t.cfg k = s.world.sampleAt s.cfg (k + L.count .sample) := by
  obtain ⟨hcfg, hworld⟩ := h.inputs
  rw [hworld, hcfg, performAll_sampleAt]

theorem Leads.allDone (h : Leads L s t) {m n : Nat} (hd : s.world.AllDone m) (hm : L.length + n ≤ m) :
    t.world.AllDone n := by
  obtain ⟨-, hworld⟩ := h.inputs
  intro k hk
  rw [hworld, performAll_ackAt]
  exact hd _ (by omega)

/-! ### One call -/

theorem call_of_exec (h : exec i s = .next t) (hr : t.rsp = some r) : call i s = some (takeResponse t, r) := by
  simp only [call, h, hr, Option.map_some]

/-- A command that ends with its response taken, the line steps L performed. -/
theorem leads_takeResponse (hl : s.cfg.legal = true) (hidle : t.fsm = .idle) (hport : portOf t = performAll L (portOf s)) :
    Leads L s (takeResponse t) := by
  have hcfg : t.cfg = s.cfg := (congrArg State.cfg hport).trans (performAll_cfg L (portOf s))
  exact ⟨⟨by rw [takeResponse_cfg, hcfg, hl], hidle, rfl⟩, hport⟩

/-- START and STOP: their one sub-sequence. -/
theorem call_line (hs : s.Ready) (hi : IsLineCommand i) (hd : s.world.AllDone (singleSeq s i).length) :
    ∃ t r, call i s = some (t, r) ∧ Leads (singleSeq s i) s t := by
  obtain ⟨-, hlen, haux, -⟩ := singleSeq_line s s hi
  obtain ⟨hf, -, hc⟩ := entry_single hi.isSingle (hi.wf s.cfg)
  obtain ⟨hidle, hend⟩ := endOfSeq_line hi haux hs.legal
  have hrun := exec_single_done hs.idle hi.isSingle (hi.wf s.cfg) (currentSeq_line s hf hc hi)
    (hlen.trans (by decide)) hd hidle
  refine ⟨_, _, call_of_exec hrun hend.rsp, leads_takeResponse hs.legal hidle ?_⟩
  have hsame : SameOutside _ (endOfSeq (singleSeq s i) s i) := finishSeq_same _
  have hphase (p : Nat) (u : State) : portOf (setPhase p u) = portOf u := rfl
  rw [hsame.portOf, hphase, entry_line s hi, portOf_performAll]
  rfl

theorem portOf_byteEnd (s : State) (i : Instr) : portOf (byteEnd s i) = performAll (byteLines i 9) (portOf s) := by
  have hsame : SameOutside (endOfBit s i 8) (byteEnd s i) := finishSeq_same _
  have hregs (v : Byte) (b : BitVec 4) (u : State) : portOf (setPhase 3 (withByte v b u)) = portOf u := rfl
  rw [hsame.portOf, endOfBit_last, hregs, portOf_performAll]
  rfl

/-- WBYTE: VAL is 1 exactly when the byte is acknowledged (R130). -/
theorem call_wbyte (hs : s.Ready) (v : Byte) (hd : s.world.AllDone 36) :
    ∃ t r, call (.wbyte v) s = some (t, r) ∧ Leads (sendByte v ++ recvBit) s t ∧
      (rspVAL r = 1 ↔ s.world.sampleAt s.cfg 0 = false) := by
  have hi : IsByteCommand (.wbyte v) := .inl ⟨v, rfl⟩
  have hend := byteEnd_end hs.legal hi
  have hrun := exec_byte_done hs.idle hi hd hend.idle
  have hlead := leads_takeResponse hs.legal hend.idle (portOf_byteEnd s (.wbyte v))
  obtain ⟨u, hu, -⟩ := byteEnd_wbyte s v
  have hsbit := hend.sbit
  rw [hu, count_sample_wbyte_all] at hsbit
  refine ⟨_, _, call_of_exec hrun (congrArg State.rsp hu), hlead, ?_⟩
  rw [rspVAL_response, show u.sbit = s.world.sampleAt s.cfg 0 from hsbit]
  cases s.world.sampleAt s.cfg 0 <;> decide

/-- RBYTE (R131). -/
theorem call_rbyte (hs : s.Ready) (a : Bool) (hd : s.world.AllDone 36) :
    ∃ t r, call (.rbyte a) s = some (t, r) ∧ Leads (recvByte ++ sendBit (!a)) s t := by
  have hi : IsByteCommand (.rbyte a) := .inr ⟨a, rfl⟩
  have hend := byteEnd_end hs.legal hi
  have hrun := exec_byte_done hs.idle hi hd hend.idle
  obtain ⟨u, hu, -⟩ := byteEnd_rbyte s a
  exact ⟨_, _, call_of_exec hrun (congrArg State.rsp hu),
    leads_takeResponse hs.legal hend.idle (portOf_byteEnd s (.rbyte a))⟩

/-! ### Programs -/

/-- The bytes sent one after another, cut after the first whose ninth bit is sampled 1 (R149). -/
def sentBytes (nack : Nat → Bool) : List Byte → List Byte
  | [] => []
  | b :: bs => b :: if nack 0 then [] else sentBytes (fun k => nack (k + 1)) bs

theorem sentBytes_acked (bs : List Byte) {nack : Nat → Bool} (h : ∀ k, k < bs.length → nack k = false) :
    sentBytes nack bs = bs := by
  induction bs generalizing nack with
  | nil => rfl
  | cons b bs ih =>
    rw [sentBytes, h 0 (Nat.succ_pos _), if_neg Bool.false_ne_true, ih fun k hk => h (k + 1) (Nat.succ_lt_succ hk)]

theorem sentBytes_nacked (bs : List Byte) {nack : Nat → Bool} {c : Nat} (hack : ∀ k, k < c → nack k = false)
    (hnack : nack c = true) : sentBytes nack bs = bs.take (c + 1) := by
  induction bs generalizing nack c with
  | nil => rfl
  | cons b bs ih =>
    rw [sentBytes, List.take_succ_cons]
    cases c with
    | zero => rw [hnack, if_pos rfl, List.take_zero]
    | succ c =>
      rw [hack 0 (Nat.succ_pos c), if_neg Bool.false_ne_true, ih (fun k hk => hack (k + 1) (Nat.succ_lt_succ hk)) hnack]

theorem length_sentBytes_le (bs : List Byte) (nack : Nat → Bool) : (sentBytes nack bs).length ≤ bs.length := by
  induction bs generalizing nack with
  | nil => exact Nat.le_refl 0
  | cons b bs ih =>
    rw [sentBytes]
    split
    · simp
    · exact Nat.succ_le_succ (ih _)

/-- WBYTEs, cut after the first one that is not acknowledged. -/
theorem callBytes_leads (hs : s.Ready) (bs : List Byte) (hd : s.world.AllDone (36 * bs.length)) :
    ∃ t, callBytes bs s = some t ∧ Leads (sendBytes (sentBytes (s.world.sampleAt s.cfg) bs)) s t := by
  induction bs generalizing s with
  | nil => exact ⟨s, rfl, .refl hs⟩
  | cons b bs ih =>
    rw [List.length_cons] at hd
    obtain ⟨t, r, hcall, hlead, hval⟩ := call_wbyte hs b (hd.mono (by omega))
    have hlen : (sendByte b ++ recvBit).length = 36 := rfl
    simp only [callBytes, hcall, sentBytes]
    cases hack : s.world.sampleAt s.cfg 0 with
    | true =>
      have hne : ¬ rspVAL r = 1 := by rw [hval, hack]; exact Bool.noConfusion
      exact ⟨t, if_neg hne, by simpa [sendBytes] using hlead⟩
    | false =>
      obtain ⟨u, hrest, hleads⟩ := ih hlead.ready (hlead.allDone hd (by omega))
      have hsample : t.world.sampleAt t.cfg = fun k => s.world.sampleAt s.cfg (k + 1) := funext hlead.sampleAt
      rw [hsample] at hleads
      exact ⟨u, (if_pos (hval.mpr hack)).trans hrest, hlead.trans hleads⟩

/-- RBYTEs with their answers. -/
theorem callReads_leads (hs : s.Ready) (as : List Bool) (hd : s.world.AllDone (36 * as.length)) :
    ∃ t, callReads as s = some t ∧ Leads (as.flatMap fun a => recvByte ++ sendBit (!a)) s t := by
  induction as generalizing s with
  | nil => exact ⟨s, rfl, .refl hs⟩
  | cons a as ih =>
    rw [List.length_cons] at hd
    obtain ⟨t, r, hcall, hlead⟩ := call_rbyte hs a (hd.mono (by omega))
    have hlen : (recvByte ++ sendBit (!a)).length = 36 := rfl
    obtain ⟨u, hrest, hleads⟩ := ih hlead.ready (hlead.allDone hd (by omega))
    exact ⟨u, by simp only [callReads, hcall, hrest], hlead.trans hleads⟩

/-- A program between START and STOP. -/
theorem bracket_leads {p : State → Option State} (hs : s.Ready) {m : Nat} (hd : s.world.AllDone m)
    (hm : L.length + 11 ≤ m) (hp : ∀ t, Leads startLines s t → ∃ u, p t = some u ∧ Leads L t u) :
    ∃ u, bracket p s = some u ∧ Leads (startLines ++ L ++ stopLines) s u := by
  have hstartLen : (singleSeq s .start).length = 5 := rfl
  obtain ⟨t, r, hstart, hlead⟩ := call_line (i := .start) hs (.inl rfl) (hd.mono (by omega))
  obtain ⟨u, hprog, hleads⟩ := hp t hlead
  have hleads' : Leads (startLines ++ L) s u := hlead.trans hleads
  have hlen : (startLines ++ L).length = 5 + L.length := List.length_append
  obtain ⟨v, r', hstop, hlast⟩ := call_line (i := .stop) hleads'.ready (.inr (.inl rfl))
    (hleads'.allDone (n := 6) hd (by omega))
  exact ⟨v, by simp only [bracket, hstart, hprog, hstop, Option.map_some], hleads'.trans hlast⟩

/-! ### The transfers -/

/-- Every sample is 0, or there is a first one that is not. -/
theorem acked_or_first_nack (f : Nat → Bool) (m : Nat) :
    (∀ k, k < m → f k = false) ∨ ∃ c, c < m ∧ (∀ k, k < c → f k = false) ∧ f c = true := by
  induction m with
  | zero => exact .inl nofun
  | succ m ih =>
    rcases ih with hall | ⟨c, hc, hfirst⟩
    · cases hm : f m with
      | false => exact .inl fun k hk => (Nat.lt_succ_iff_lt_or_eq.mp hk).elim (hall k) (· ▸ hm)
      | true => exact .inr ⟨m, Nat.lt_succ_self m, hall, hm⟩
    · exact .inr ⟨c, Nat.lt_succ_of_lt hc, hfirst⟩

/-- A transfer and a program that performed the same line steps left the same trace and port registers. -/
theorem same_port_of_leads (st : Status) (q : State) (h : Leads (L ++ stopLines) s u) :
    (transferEnd st q L s).trace = u.trace ∧ (transferEnd st q L s).portOut = u.portOut ∧
      (transferEnd st q L s).portDir = u.portDir := by
  have hport : portOf (transferEnd st q L s) = portOf u := (portOf_performAll (L ++ stopLines) s).trans h.port.symm
  exact ⟨congrArg (·.trace) hport, congrArg (·.portOut) hport, congrArg (·.portDir) hport⟩

theorem take_payload (s : State) {c n : Nat} (hc : c ≤ n) : (payload s n).take c = payload s c := by
  rw [payload, payload, ← List.map_take, List.take_range, Nat.min_eq_left hc]

/-- A write sends the address byte and the payload up to the first byte not acknowledged, whatever the samples. -/
theorem exec_xferW_sent {addr : BitVec 7} {n : Byte} (hs : s.Ready) (hd : s.world.AllDone (47 + 36 * n.toNat)) :
    ∃ st q, exec (.xferW addr n) s = .next (transferEnd st q (startLines ++
      sendBytes (sentBytes (s.world.sampleAt s.cfg) (addressByte addr false :: payload s n.toNat))) s) := by
  have hlen : (addressByte addr false :: payload s n.toNat).length = n.toNat + 1 := by
    rw [List.length_cons, length_payload]
  rcases acked_or_first_nack (s.world.sampleAt s.cfg) (n.toNat + 1) with hall | ⟨c, hc, hack, hnack⟩
  · rw [sentBytes_acked _ (hlen ▸ hall), ← addressLines_append_sendBytes]
    exact ⟨_, _, exec_xferW_acked hs hd fun k hk => hall k (Nat.lt_succ_of_le hk)⟩
  · rw [sentBytes_nacked _ hack hnack, List.take_succ_cons, ← addressLines_append_sendBytes,
      take_payload s (Nat.le_of_lt_succ hc)]
    cases c with
    | zero => exact ⟨_, _, exec_transfer_addressNacked hs ⟨addr, n, .inl rfl⟩ (hd.mono (by omega)) hnack⟩
    | succ c =>
      exact ⟨_, _, exec_xferW_nacked hs (by omega) (hd.mono (by omega)) (fun k hk => hack k (by omega)) hnack⟩

/-- Settles O29: between START and STOP both send the bytes of `sentBytes`. -/
theorem writeTransferEqualsSingleSteps : Obligations.WriteTransferEqualsSingleSteps := by
  unfold Obligations.WriteTransferEqualsSingleSteps
  intro s addr n hs hd
  obtain ⟨st, q, hrun⟩ := exec_xferW_sent (addr := addr) hs hd
  have hlen : (addressByte addr false :: payload s n.toNat).length = n.toNat + 1 := by
    rw [List.length_cons, length_payload]
  have hle := length_sentBytes_le (addressByte addr false :: payload s n.toNat) (s.world.sampleAt s.cfg)
  have hstart : startLines.length = 5 := rfl
  obtain ⟨u, hprog, hleads⟩ : ∃ u, writeBySingles addr n s = some u ∧ Leads (startLines ++ sendBytes (sentBytes
      (s.world.sampleAt s.cfg) (addressByte addr false :: payload s n.toNat)) ++ stopLines) s u :=
    bracket_leads hs hd (by rw [length_sendBytes]; omega) fun t h => by
      have hsample : t.world.sampleAt t.cfg = s.world.sampleAt s.cfg := funext h.sampleAt
      rw [← hsample]
      exact callBytes_leads h.ready _ (h.allDone hd (by omega))
  exact ⟨_, u, hrun, hprog, same_port_of_leads _ _ hleads⟩

/-- The answers of the single-step read are those of the transfer: ACK on all but the final byte. -/
theorem answers_eq {n : Nat} (hn : n ≠ 0) :
    List.replicate (n - 1) true ++ [false] = (List.range n).map fun k => !(k + 1 == n) := by
  obtain ⟨m, rfl⟩ := Nat.exists_eq_succ_of_ne_zero hn
  have hack : ((List.range m).map fun k => !(k + 1 == m + 1)) = (List.range m).map fun _ => true :=
    List.map_congr_left fun k hk => by simp [(List.mem_range.mp hk).ne]
  rw [List.range_succ, List.map_append, Nat.succ_eq_add_one, hack, List.map_const', List.length_range]
  simp

/-- The reading part of the single-step program, after START. -/
theorem callReads_after_address (hs : s.Ready) (a : Byte) {n : Nat} (hn : n ≠ 0) (hd : s.world.AllDone (36 + 36 * n))
    (hack : s.world.sampleAt s.cfg 0 = false) :
    ∃ t u, callBytes [a] s = some t ∧ callReads (List.replicate (n - 1) true ++ [false]) t = some u ∧
      Leads (sendBytes [a] ++ recvBytes n) s u := by
  obtain ⟨t, haddr, hlead⟩ := callBytes_leads hs [a] (hd.mono (by simp))
  rw [sentBytes_acked [a] fun k hk => by simpa [Nat.lt_one_iff.mp hk] using hack] at hlead
  have hlen : (sendBytes [a]).length = 36 := rfl
  rw [answers_eq hn]
  obtain ⟨u, hreads, hlast⟩ := callReads_leads hlead.ready ((List.range n).map fun k => !(k + 1 == n))
    (hlead.allDone hd (by rw [List.length_map, List.length_range, hlen]))
  rw [List.flatMap_map] at hlast
  simp only [Bool.not_not] at hlast
  exact ⟨t, u, haddr, hreads, hlead.trans hlast⟩

/-- Settles O30: between START and STOP both send the address byte and receive n bytes with the same answers. -/
theorem readTransferEqualsSingleSteps : Obligations.ReadTransferEqualsSingleSteps := by
  unfold Obligations.ReadTransferEqualsSingleSteps
  intro s addr n hs hn hd hack
  have hrun := exec_xferR_acked (addr := addr) hs hn hd hack
  have hlines : addressLines (addressByte addr true) ++ recvBytes n.toNat =
      startLines ++ (sendBytes [addressByte addr true] ++ recvBytes n.toNat) := by
    rw [← List.append_assoc, ← addressLines_append_sendBytes, sendBytes, List.flatMap_nil, List.append_nil]
  rw [hlines] at hrun
  have hpos : n.toNat ≠ 0 := fun h => hn (BitVec.eq_of_toNat_eq h)
  have hstart : startLines.length = 5 := rfl
  have haddr : (sendBytes [addressByte addr true]).length = 36 := rfl
  obtain ⟨u, hprog, hleads⟩ : ∃ u, readBySingles addr n s = some u ∧ Leads (startLines ++
      (sendBytes [addressByte addr true] ++ recvBytes n.toNat) ++ stopLines) s u :=
    bracket_leads hs hd (by rw [List.length_append, length_recvBytes]; omega) fun t h => by
      obtain ⟨v, w, hv, hw, hlead⟩ := callReads_after_address h.ready (addressByte addr true) hpos
        (h.allDone hd (by omega)) ((h.sampleAt 0).trans hack)
      exact ⟨w, by simp only [hv, hw], hlead⟩
  exact ⟨_, u, hrun, hprog, same_port_of_leads _ _ hleads⟩

end Sys2Proof.Machine
end

section
/-! PROOFS. A transfer in every environment: how it ends (R143, R147), and its frame. -/

namespace Sys2Proof.Machine

variable {s t u : State} {i : Instr} {l : Line} {c : Config}

/-! ### The states of a transfer -/

/-- IDLE and the states of R146. -/
def Fsm.ofTransfer : Fsm → Bool
  | .recSample | .recPulse | .single => false
  | .idle | .start | .address | .ackAddr | .dataPhase | .ackData | .stop => true

theorem performed_ofTransfer (l : Line) (h : s.fsm.ofTransfer = true) : performed l s = perform l (takeAck s) :=
  countPulse_other fun hf => by
    rw [perform_fsm, takeAck_fsm] at hf
    simp [hf, Fsm.ofTransfer] at h

/-- A sub-sequence of a transfer leads to another one or to IDLE, and counts no pulse. -/
theorem SeqEnd.ofTransfer (he : SeqEnd s t) (h : s.fsm.ofTransfer = true) :
    t.fsm.ofTransfer = true ∧ t.pulsecnt = s.pulsecnt := by
  cases he with
  | byteAnswered => rcases countByte_cases s with ⟨-, h⟩ | ⟨-, h⟩ <;> rw [h] <;> exact ⟨rfl, rfl⟩
  | byteAcked => rcases countByte_cases (detectAck s) with ⟨-, h⟩ | ⟨-, h⟩ <;> rw [h] <;> exact ⟨rfl, rfl⟩
  | started | addressBit | addressByte | addressOnly | addressAcked | bitSent | bitReceived | byteSent | byteReceived
  | byteNacked | stopped => exact ⟨rfl, rfl⟩
  | lineFree hf | lineForced hf | lineHeld hf | pulseLast hf | pulseHeld hf | single hf | wbyteLast hf | wbyteBit hf
  | rbyteBit hf => simp [hf, Fsm.ofTransfer] at h

theorem PrimOutcome.ofTransfer (ho : PrimOutcome s t) (h : s.fsm.ofTransfer = true) :
    t.fsm.ofTransfer = true ∧ t.pulsecnt = s.pulsecnt := by
  cases ho with
  | lost => exact ⟨h, rfl⟩
  | wait => exact ⟨h, rfl⟩
  | fault => exact ⟨rfl, rfl⟩
  | next => rw [performed_ofTransfer _ h]; exact ⟨by simpa using h, by simp⟩
  | last _ _ _ he =>
    rw [performed_ofTransfer _ h] at he
    obtain ⟨hf, hp⟩ := he.ofTransfer (by simpa using h)
    exact ⟨hf, by simpa using hp⟩

/-- No sub-sequence's end touches the port, the latches, TXBUF or the inputs. -/
theorem SeqEnd.same (he : SeqEnd s t) : SameOutside s t := by
  cases he with
  | byteAnswered => exact countByte_same s
  | byteAcked =>
    have h := countByte_same (detectAck s)
    exact ⟨h.cfg, h.portOut, h.portDir, h.sbit, h.addrb, h.rw, h.len, h.force, h.txbuf, h.trace, h.epoch, h.world⟩
  | started | addressBit | addressByte | addressOnly | addressAcked | bitSent | bitReceived | byteSent | byteReceived
  | byteNacked | stopped | lineFree | lineForced | lineHeld | pulseLast | pulseHeld | single | wbyteLast | wbyteBit
  | rbyteBit => exact ⟨rfl, rfl, rfl, rfl, rfl, rfl, rfl, rfl, rfl, rfl, rfl, rfl⟩

/-! ### The frame -/

/-- A transfer keeps PULSECNT, FORCE and the number of resets. -/
theorem exec_transfer_keeps {addr : BitVec 7} {n : Byte} (hi : i = .xferW addr n ∨ i = .xferR addr n)
    (h : exec i s = .next t) : t.pulsecnt = s.pulsecnt ∧ t.force = s.force ∧ t.epoch = s.epoch := by
  rcases exec_cases h with rfl | ⟨hw, rfl⟩
  · exact ⟨rfl, rfl, rfl⟩
  have hentry : (entry s i).fsm.ofTransfer = true ∧ (entry s i).pulsecnt = s.pulsecnt ∧ (entry s i).force = s.force := by
    rcases hi with rfl | rfl
    · exact ⟨rfl, rfl, rfl⟩
    · rw [entry, if_neg (by simpa [Instr.wf] using hw)]
      exact ⟨rfl, rfl, rfl⟩
  obtain ⟨hf, hp, hforce⟩ := hentry
  obtain ⟨-, -, -, -, -, hforce', hep⟩ := advance_keeps Config.maxPrimitives (entry s i)
  obtain ⟨-, -, -, -, -, hep'⟩ := entry_keeps s i
  refine ⟨?_, hforce'.trans hforce, hep.trans hep'⟩
  refine (advance_induction (P := fun u => u.fsm.ofTransfer = true ∧ u.pulsecnt = s.pulsecnt) (fun u hu _ => ?_) _
    ⟨hf, hp⟩).2
  obtain ⟨hf', hp'⟩ := (primStep_outcome u).ofTransfer hu.1
  exact ⟨hf', hp'.trans hu.2⟩

/-- Settles O41: a transfer counts no pulse (`exec_transfer_keeps`); the auxiliary bits, the directions and the buffers
have their own laws for every command. -/
theorem transferFrame : Obligations.TransferFrame := by
  unfold Obligations.TransferFrame
  intro s t i addr n hi h
  have haux : i.isAuxset = false := by rcases hi with rfl | rfl <;> rfl
  obtain ⟨hp, hforce, hep⟩ := exec_transfer_keeps hi h
  obtain ⟨es, -, hdir⟩ := DirsKept_exec h
  refine ⟨exec_cfg h, hp, hforce, hep, auxSame_portOut_exec haux h,
    fun j hj => (hdir j (not_writesDir_of_not_auxset haux hj)).1, fun a => (exec_readTx h a).resolve_right ?_,
    fun hw a => (exec_readRx h a).resolve_right ?_, fun hr a ha => (exec_readRx h a).resolve_right ?_⟩
  · rcases hi with rfl | rfl <;> exact nofun
  · rw [hw]
    exact nofun
  · rintro ⟨addr', n', heq, hlt⟩
    obtain ⟨-, rfl⟩ : addr = addr' ∧ n = n' := by simpa [hr] using heq
    omega

/-! ### How a transfer ends -/

/-- Since state s the last events are those of the first k line steps of STOP. -/
structure StopTail (s u : State) (k : Nat) : Prop where
  trace : ∃ es fs, u.trace = s.trace ++ (es ++ fs) ∧ fs.map Event.line = (stopLines.take k).map some
  lineState : ∃ x, u.lineState = (stopLines.take k).foldl Line.drive x

theorem StopTail_zero {es : List Event} (h : u.trace = s.trace ++ es) : StopTail s u 0 :=
  ⟨⟨es, [], by rw [h, List.append_nil], rfl⟩, u.lineState, rfl⟩

/-- One more line step of STOP. -/
theorem StopTail.perform {k : Nat} (h : StopTail s u k) (hl : u.cfg.legal = true) (hk : stopLines[k]? = some l) :
    StopTail s (perform l (takeAck u)) (k + 1) := by
  obtain ⟨⟨es, fs, htr, hline⟩, x, hx⟩ := h
  obtain ⟨v, hv⟩ := perform_trace l (takeAck u)
  have haux : l.isAux = false := by
    have hall : stopLines.all (!·.isAux) = true := rfl
    simpa using List.all_eq_true.mp hall l (List.mem_of_getElem? hk)
  have htake : stopLines.take (k + 1) = stopLines.take k ++ [l] := by rw [List.take_add_one, hk]; rfl
  refine ⟨⟨es, fs ++ [.done l v], ?_, ?_⟩, x, ?_⟩
  · rw [hv, takeAck_trace, htr, List.append_assoc, List.append_assoc]
  · rw [htake, List.map_append, List.map_append, hline]
    rfl
  · rw [lineState_perform (s := takeAck u) hl haux, htake, List.foldl_append, ← hx]
    rfl

theorem StopTail.congr {k : Nat} (h : StopTail s u k) (ht : t.trace = u.trace) (hl : t.lineState = u.lineState) :
    StopTail s t k := by
  obtain ⟨⟨es, fs, htr, hline⟩, x, hx⟩ := h
  exact ⟨⟨es, fs, ht.trans htr, hline⟩, x, hl.trans hx⟩

theorem SameOutside.lineState (h : SameOutside s t) : t.lineState = s.lineState := by
  obtain ⟨hscl, hsda, hoe⟩ := h.lines
  rw [State.lineState, hscl, hsda, hoe]
  rfl

/-- A transfer answers at the end of STOP alone (R147). -/
theorem SeqEnd.idle_iff_stop (he : SeqEnd s t) (h : s.fsm.ofTransfer = true) : t.fsm = .idle ↔ s.fsm = .stop := by
  cases he with
  | stopped hf => exact ⟨fun _ => hf, fun _ => rfl⟩
  | byteAnswered hf | byteAcked hf =>
    refine ⟨fun hidle => absurd hidle (countByte_busy _), fun hstop => ?_⟩
    cases hf.symm.trans hstop
  | started hf | addressBit hf | addressByte hf | addressOnly hf | addressAcked hf | bitSent hf | bitReceived hf
  | byteSent hf | byteReceived hf | byteNacked hf =>
    refine ⟨nofun, fun hstop => ?_⟩
    cases hf.symm.trans hstop
  | lineFree hf | lineForced hf | lineHeld hf | pulseLast hf | pulseHeld hf | single hf | wbyteLast hf | wbyteBit hf
  | rbyteBit hf => simp [hf, Fsm.ofTransfer] at h

/-- What a run of a transfer keeps: in STOP the line steps before this phase were its last, and once it is over without
BUS_TIMEOUT all six were. -/
structure TransferRun (s u : State) : Prop where
  cfg : u.cfg = s.cfg
  fsm : u.fsm.ofTransfer = true
  trace : ∃ es, u.trace = s.trace ++ es
  stop : u.fsm = .stop → StopTail s u u.phase
  idle : u.fsm = .idle → u.err = 0x03 ∨ StopTail s u 6

theorem TransferRun_primStep (hl : s.cfg.legal = true) (h : TransferRun s u) (hb : u.fsm ≠ .idle) :
    TransferRun s (primStep u) := by
  obtain ⟨hcfg, hf, ⟨es, htr⟩, hstop, -⟩ := h
  have ho := primStep_outcome u
  have hcfg' : (primStep u).cfg = s.cfg := (primStep_keeps u).1.trans hcfg
  have hf' := (ho.ofTransfer hf).1
  have hperf (l : Line) : ∃ es, (perform l (takeAck u)).trace = s.trace ++ es := by
    obtain ⟨v, hv⟩ := perform_trace l (takeAck u)
    exact ⟨es ++ [.done l v], by rw [hv, takeAck_trace, htr, List.append_assoc]⟩
  have htail {l : Line} (hn : nextLine u = some l) (hst : u.fsm = .stop) :
      StopTail s (perform l (takeAck u)) (u.phase + 1) := by
    simp only [nextLine, currentSeq, hst] at hn
    exact (hstop hst).perform (hcfg ▸ hl) hn
  generalize primStep u = t at *
  cases ho with
  | lost => exact ⟨hcfg, hf, ⟨es, htr⟩, hstop, fun hi => absurd hi hb⟩
  | wait => exact ⟨hcfg, hf, ⟨es, htr⟩, fun hst => (hstop hst).congr rfl rfl, fun hi => absurd hi hb⟩
  | fault => exact ⟨hcfg', hf', ⟨es ++ [.fault], by rw [respond_trace, htr, List.append_assoc]⟩, nofun, fun _ => .inl rfl⟩
  | @next l hn _ hlt =>
    rw [performed_ofTransfer l hf] at *
    have hfl : (perform l (takeAck u)).fsm = u.fsm := by simp
    exact ⟨hcfg', hf', hperf l, fun hst => (htail hn (hfl.symm.trans hst)).congr rfl rfl,
      fun hi => absurd (hfl.symm.trans hi) hb⟩
  | @last l _ hn _ hge he =>
    rw [performed_ofTransfer l hf] at he
    have hfl : (perform l (takeAck u)).fsm = u.fsm := by simp
    have hiff := he.idle_iff_stop (hfl ▸ hf)
    rw [hfl] at hiff
    obtain ⟨es', htr'⟩ := hperf l
    have htrace : t.trace = s.trace ++ es' := he.same.trace.trans htr'
    refine ⟨hcfg', hf', ⟨es', htrace⟩, fun _ => ?_, fun hi => .inr ?_⟩
    · rw [he.phase_recPulse.1]
      exact StopTail_zero htrace
    · have hst := hiff.mp hi
      have hphase : u.phase + 1 = 6 := by
        simp only [currentSeq, hst] at hge
        obtain ⟨hlt, -⟩ := List.getElem?_eq_some_iff.mp (show stopSeq[u.phase]? = some l by
          simpa only [nextLine, currentSeq, hst] using hn)
        exact Nat.le_antisymm hlt hge
      exact hphase ▸ (htail hn hst).congr he.same.trace he.same.lineState

theorem TransferRun_exec (hs : s.Ready) (hi : IsTransfer i) (h : exec i s = .next t) : TransferRun s t := by
  obtain ⟨hf, -, -, hport⟩ := entry_transfer s hi
  rw [exec_eq_advance_entry i hs.idle] at h
  cases h
  refine advance_induction (P := TransferRun s) (fun u hu hb => TransferRun_primStep hs.legal hu hb) _ ?_
  exact ⟨(entry_keeps s i).1, by rw [hf]; rfl, ⟨[], by rw [entry_trace, List.append_nil]⟩, fun hst => by simp [hf] at hst,
    fun hidle => by simp [hf] at hidle⟩

/-! ### The last symbol -/

/-- The decoder reads a trace in parts, the second from the view the first leaves. -/
theorem readWire_append (w : WireView) (es : List Event) :
    ∃ w', ∀ fs, readWire c w (es ++ fs) = readWire c w es ++ readWire c w' fs := by
  induction es generalizing w with
  | nil => exact ⟨w, fun _ => rfl⟩
  | cons e es ih =>
    obtain ⟨w', h⟩ := ih (readEvent c w e).2
    exact ⟨w', fun fs => by rw [List.cons_append, readWire, readWire, h, List.append_assoc]⟩

/-- Without a sample the values in the events are not read (R12). -/
theorem readWire_of_lines {L : List Line} (hL : .sample ∉ L) (w : WireView) (f : Nat → Byte) {es : List Event}
    (h : es.map Event.line = L.map some) : readWire c w es = readWire c w (lineEvents f L) := by
  induction L generalizing w f es with
  | nil =>
    obtain rfl : es = [] := List.map_eq_nil_iff.mp h
    rfl
  | cons l L ih =>
    obtain ⟨e, es, rfl, he, hes⟩ := List.map_eq_cons_iff.mp h
    obtain ⟨v, rfl⟩ : ∃ v, e = .done l v := by
      cases e with
      | done l' v => exact ⟨v, by simpa [Event.line] using he⟩
      | fault => cases he
    have hl : l ≠ .sample := fun e => hL (e ▸ List.mem_cons_self)
    rw [lineEvents, readWire, readWire, readEvent_done c w fun e => absurd e hl,
      ih (fun hmem => hL (List.mem_cons_of_mem _ hmem)) _ _ hes]

/-- STOP ends in P from whatever is on the wire before it (R122). -/
theorem getLast?_readWire_stopLines (w : WireView) (f : Nat → Byte) :
    (readWire c w (lineEvents f stopLines)).getLast? = some .P := by
  obtain ⟨_ | _, _ | _, _ | _, _ | _⟩ := w <;> rfl

/-- Settles O26: a run that is over without BUS_TIMEOUT has the six line steps of STOP last (`TransferRun_exec`). -/
theorem transferEndsWithAStopAndIdle : Obligations.TransferEndsWithAStopAndIdle := by
  unfold Obligations.TransferEndsWithAStopAndIdle
  intro s t i addr n hs hi h hidle herr
  have hrun := TransferRun_exec hs ⟨addr, n, hi⟩ h
  obtain ⟨⟨es, fs, htr, hline⟩, x, hx⟩ := (hrun.idle hidle).resolve_left herr
  have hev := eventsBetween_of_trace htr
  refine ⟨⟨es.map Event.line, ?_⟩, hx.trans (drive_stopLines x), ?_⟩
  · rw [linesBetween, hev, List.map_append, hline]
    rfl
  · obtain ⟨w, hw⟩ := readWire_append (c := s.cfg) ⟨s.lineState.1, s.lineState.2.1, s.lineState.2.2, none⟩ es
    rw [hev, symbols, hw, readWire_of_lines (by simp [stopLines]) w (fun _ => 0) hline, List.getLast?_append,
      List.take_of_length_le (by decide), getLast?_readWire_stopLines]
    rfl

end Sys2Proof.Machine
end

section
/-! PROOFS. The recovery (R160 to R165) as moves, all primitives done: release and first sample, the pulses of a line
that stays held, and the STOP. -/

namespace Sys2Proof.Machine

variable {s t u r : State} {force : Bool} {p : Nat} {st : Status}

/-! ### The sub-sequences of a recovery -/

/-- REC_SAMPLE: the sample and FORCE decide where it leads (R161, R164). -/
theorem moves_recSample (hf : r.fsm = .recSample) (hp : r.phase = 0) : Moves u r recSampleSeq
    (if u.world.sampleAt u.cfg 0 then if r.force then enterStop .ok r else respond .ok 0 0 r
    else enter .recPulse r) := by
  refine moves_seq (by simp only [currentSeq, hf]) hp nofun (by simp [hf]) (by simp [hf]) fun x w hx => ?_
  have hf' : (setPhase 1 (sampled x r)).fsm = .recSample := hf
  have hsample : x = u.world.sampleAt u.cfg 0 := hx.trans (performAll_sbit recSampleSeq u)
  rw [← hsample]
  show onPort (finishSeq (setPhase 1 (sampled x r))) w = _
  simp only [finishSeq, hf', finishRecSample, onPort_ite]
  rfl

/-- The registers with k pulses counted in PULSECNT (R30). -/
def withPulses (k : Nat) (s : State) : State := { s with pulsecnt := BitVec.ofNat 4 k }

theorem withPulses_toNat {k : Nat} (hk : k ≤ 10) (s : State) : (withPulses k s).pulsecnt.toNat = k := by
  show (BitVec.ofNat 4 k).toNat = k
  rw [BitVec.toNat_ofNat, Nat.mod_eq_of_lt (by omega)]

theorem addPulse_withPulses (k : Nat) (s : State) : addPulse (withPulses k s) = withPulses (k + 1) s := by
  rw [withPulses, withPulses, BitVec.ofNat_add]
  rfl

/-- The engine after k pulses of a line that stays held: STOP with BUS_STUCK after the tenth, else the next pulse (R161,
R163). -/
def pulsed (k : Nat) (s : State) : State :=
  if k < Config.recoverMaxPulses then enter .recPulse (withPulses k s) else enterStop .busStuck (withPulses k s)

/-- REC_PULSE: a pulse is counted, and its sample decides where it leads (R161). -/
theorem moves_recPulse {k : Nat} (hk : k < 10) : Moves u (pulsed k r) pulseLines
    (if u.world.sampleAt u.cfg 0 then enterStop .ok (withPulses (k + 1) r) else pulsed (k + 1) r) := by
  intro hd n
  have hpulse : pulsed k r = enter .recPulse (withPulses k r) := if_pos hk
  rw [hpulse]
  refine (advance_recPulse (s := onPort (enter .recPulse (withPulses k r)) u) n rfl rfl hd).trans
    (congrArg (advance n) ?_)
  rw [performAll_onPort]
  refine (finishSeq_onPort (addPulse (setPhase 2 (enter .recPulse (withPulses k r))))
    (performAll pulseLines u)).trans ?_
  have hsample : (performAll pulseLines u).sbit = u.world.sampleAt u.cfg 0 := performAll_sbit pulseLines u
  rw [hsample]
  have hcount := withPulses_toNat (show k + 1 ≤ 10 by omega) r
  rw [← addPulse_withPulses] at hcount
  show onPort (if u.world.sampleAt u.cfg 0 then _ else
    if (addPulse (withPulses k r)).pulsecnt.toNat < Config.recoverMaxPulses then _ else _) _ = _
  rw [hcount]
  simp only [pulsed, onPort_ite, ← addPulse_withPulses]
  rfl

/-- The first p pulses of a line that stays held through them. -/
theorem moves_heldPulses (hp : p ≤ 10) (hheld : ∀ k, k < p → u.world.sampleAt u.cfg k = false) :
    Moves u (pulsed 0 r) (List.replicate p pulseLines).flatten (pulsed p r) := by
  have hlines : (List.replicate p pulseLines).flatten = (List.range p).flatMap fun _ => pulseLines := by
    simp [List.flatMap, List.map_const']
  rw [hlines]
  refine Moves.iterate (pulsed · r) _ fun k hk => ?_
  have hpulse := moves_recPulse (r := r) (u := performAll ((List.range k).flatMap fun _ => pulseLines) u)
    (show k < 10 by omega)
  rwa [performAll_sampleAt, performAll_cfg, count_sample_flatMap (c := 1) fun _ => rfl, Nat.one_mul, Nat.zero_add,
    hheld k hk, if_neg Bool.false_ne_true] at hpulse

/-! ### The whole recovery -/

/-- The line steps of a recovery up to its p-th pulse (R160). -/
def recoverLines (p : Nat) : List Line := [.oe false, .sample] ++ (List.replicate p pulseLines).flatten

theorem recoverLines_succ (p : Nat) : recoverLines (p + 1) = recoverLines p ++ pulseLines := by
  simp [recoverLines, List.replicate_succ']

theorem recoverLines_facts (p : Nat) : (recoverLines p).length = 2 + 3 * p ∧
    (recoverLines p).count .sample = p + 1 ∧ (recoverLines p).all (!·.isAux) = true := by
  induction p with
  | zero => exact ⟨rfl, rfl, rfl⟩
  | succ p ih =>
    obtain ⟨hlen, hcount, haux⟩ := ih
    rw [recoverLines_succ, List.length_append, List.count_append, List.all_append, hlen, hcount, haux]
    exact ⟨rfl, rfl, rfl⟩

/-- The first n samples find the line held. -/
def HeldFor (s : State) (n : Nat) : Prop := ∀ k, k < n → s.world.sampleAt s.cfg k = false

/-- A recovery of a line held through its p-th pulse. -/
theorem moves_recover_held (hp : p ≤ 10) (hheld : HeldFor s (p + 1)) :
    Moves s (entry s (.recover force)) (recoverLines p) (pulsed p (entry s (.recover force))) := by
  have hfirst := moves_recSample (u := s) (r := entry s (.recover force)) rfl rfl
  rw [hheld 0 (by omega), if_neg Bool.false_ne_true] at hfirst
  have hstart : Moves s (entry s (.recover force)) recSampleSeq (pulsed 0 (entry s (.recover force))) := hfirst
  refine hstart.trans (moves_heldPulses hp fun k hk => ?_)
  rw [performAll_sampleAt, performAll_cfg]
  exact hheld (k + 1) (by omega)

/-- A recovery of a line released by its p-th pulse leads to STOP with OK; by the first sample only when forced. -/
theorem moves_recover_released (hp : p ≤ 10) (hforce : p = 0 → force = true) (hheld : HeldFor s p)
    (hfree : s.world.sampleAt s.cfg p = true) :
    Moves s (entry s (.recover force)) (recoverLines p)
      (enterStop .ok (withPulses p (entry s (.recover force)))) := by
  cases p with
  | zero =>
    have hfirst := moves_recSample (u := s) (r := entry s (.recover force)) rfl rfl
    rw [hfree, if_pos rfl] at hfirst
    rw [hforce rfl] at hfirst ⊢
    exact hfirst
  | succ p =>
    obtain ⟨-, hcount, -⟩ := recoverLines_facts p
    have hlast := moves_recPulse (r := entry s (.recover force)) (u := performAll (recoverLines p) s)
      (show p < 10 by omega)
    rw [performAll_sampleAt, performAll_cfg, hcount, Nat.zero_add, hfree, if_pos rfl] at hlast
    rw [recoverLines_succ]
    exact (moves_recover_held (by omega) hheld).trans hlast

/-! ### Its ends -/

/-- A recovery over after p pulses and STOP, with the status st. -/
def recoverEnd (st : Status) (p : Nat) (force : Bool) (s : State) : State :=
  onPort (respond st (BitVec.ofNat 8 p) 0 (enterStop st (withPulses p (entry s (.recover force)))))
    (performAll (recoverLines p ++ stopLines) s)

/-- A recovery that leads to STOP ends there (R162, R165). -/
theorem exec_recover_stop (hs : s.Ready) (hp : p ≤ 10) (hd : s.world.AllDone (8 + 3 * p))
    (h : Moves s (entry s (.recover force)) (recoverLines p) (enterStop st (withPulses p (entry s (.recover force))))) :
    exec (.recover force) s = .next (recoverEnd st p force s) := by
  obtain ⟨hlen, -⟩ := recoverLines_facts p
  have hlen' : (recoverLines p ++ stopLines).length = 8 + 3 * p := by
    rw [List.length_append, hlen]
    show 2 + 3 * p + 6 = _
    omega
  have hcount : countOf (withPulses p (entry s (.recover force))) = BitVec.ofNat 8 p := by
    show (withPulses p (entry s (.recover force))).pulsecnt.setWidth 8 = _
    apply BitVec.eq_of_toNat_eq
    rw [BitVec.toNat_setWidth, withPulses_toNat hp, BitVec.toNat_ofNat]
  have hrun := exec_of_moves (i := .recover force) hs.idle rfl (h.trans (moves_stop st)) rfl (hlen' ▸ hd)
    (by rw [hlen', Config.maxPrimitives]; omega)
  rwa [hcount] at hrun

/-- What it leaves in the registers, and its line steps (R160, R162). -/
theorem recoverEnd_facts (st : Status) (hl : s.cfg.legal = true) (force : Bool) :
    linesBetween s (recoverEnd st p force s) = (recoverLines p ++ stopLines).map some ∧
    (recoverEnd st p force s).fsm = .idle ∧
    (recoverEnd st p force s).rsp = some (packWord st.code (BitVec.ofNat 8 p) 0 0) ∧
    (recoverEnd st p force s).err = st.code ∧
    (recoverEnd st p force s).sbit = s.world.sampleAt s.cfg p ∧
    (recoverEnd st p force s).pulsecnt = BitVec.ofNat 4 p ∧ (recoverEnd st p force s).ackf = s.ackf ∧
    (recoverEnd st p force s).atIdleLine := by
  obtain ⟨-, hcount, haux⟩ := recoverLines_facts p
  refine ⟨linesBetween_onPort _ s _, rfl, rfl, rfl, ?_, rfl, rfl, ?_⟩
  · refine (performAll_sbit (recoverLines p ++ stopLines) s).trans ?_
    rw [List.count_append, hcount]
    rfl
  · have haux' : (recoverLines p ++ stopLines).all (!·.isAux) = true := by
      rw [List.all_append, haux]
      rfl
    rw [State.atIdleLine, recoverEnd, lineState_onPort hl haux', List.foldl_append, drive_stopLines]

/-- A line that is released by the p-th pulse, or free and the STOP forced (R162, R164). -/
theorem exec_recover_released (hs : s.Ready) (hp : p ≤ 10) (hforce : p = 0 → force = true)
    (hd : s.world.AllDone (8 + 3 * p)) (hheld : HeldFor s p) (hfree : s.world.sampleAt s.cfg p = true) :
    exec (.recover force) s = .next (recoverEnd .ok p force s) :=
  exec_recover_stop hs hp hd (moves_recover_released hp hforce hheld hfree)

/-- A line that is never released (R165, R205). -/
theorem exec_recover_stuck (hs : s.Ready) (hd : s.world.AllDone 38) (hheld : HeldFor s 11) :
    exec (.recover force) s = .next (recoverEnd .busStuck 10 force s) :=
  exec_recover_stop hs (Nat.le_refl 10) hd (moves_recover_held (Nat.le_refl 10) hheld)

/-- A recovery over after its first sample, without a STOP. -/
def recoverFree (s : State) : State :=
  onPort (respond .ok 0 0 (entry s (.recover false))) (performAll (recoverLines 0) s)

/-- A line free at the first sample, the STOP not forced (R164). -/
theorem exec_recover_free (hs : s.Ready) (hd : s.world.AllDone 2) (hfree : s.world.sampleAt s.cfg 0 = true) :
    exec (.recover false) s = .next (recoverFree s) := by
  have hfirst := moves_recSample (u := s) (r := entry s (.recover false)) rfl rfl
  rw [hfree, if_pos rfl] at hfirst
  exact exec_of_moves (i := .recover false) hs.idle rfl hfirst rfl hd (show 2 ≤ Config.maxPrimitives by decide)

theorem recoverFree_facts (hl : s.cfg.legal = true) :
    linesBetween s (recoverFree s) = (recoverLines 0).map some ∧
    (recoverFree s).sbit = s.world.sampleAt s.cfg 0 ∧ (recoverFree s).lineState = (s.scl, s.sda, false) :=
  ⟨linesBetween_onPort _ s _, performAll_sbit (recoverLines 0) s, lineState_onPort (L := recoverLines 0) hl rfl⟩

/-- How a recovery ends when all its primitives are done, by its samples (R163). -/
inductive RecoverOutcome (force : Bool) (s : State) : State → Prop
  | free (hforce : force = false) (hfree : s.world.sampleAt s.cfg 0 = true) : RecoverOutcome force s (recoverFree s)
  | released {p : Nat} (hp : p ≤ 10) (hheld : HeldFor s p) (hfree : s.world.sampleAt s.cfg p = true) :
      RecoverOutcome force s (recoverEnd .ok p force s)
  | stuck (hheld : HeldFor s 11) : RecoverOutcome force s (recoverEnd .busStuck 10 force s)

/-- Among the eleven samples one is the first that finds the line free, or all find it held. -/
theorem released_or_stuck (s : State) :
    (∃ p, p ≤ 10 ∧ HeldFor s p ∧ s.world.sampleAt s.cfg p = true) ∨ HeldFor s 11 := by
  by_cases h : ∃ p, p < 11 ∧ s.world.sampleAt s.cfg p = true
  · obtain ⟨hlt, hfree⟩ := Nat.find_spec h
    refine .inl ⟨Nat.find h, Nat.le_of_lt_succ hlt, fun k hk => ?_, hfree⟩
    have hmin := Nat.find_min h hk
    simpa [hk.trans hlt] using hmin
  · refine .inr fun k hk => ?_
    by_contra hne
    exact h ⟨k, hk, by simpa using hne⟩

theorem exec_recover_outcome (hs : s.Ready) (hd : s.world.AllDone 38) :
    ∃ t, exec (.recover force) s = .next t ∧ RecoverOutcome force s t := by
  rcases released_or_stuck s with ⟨p, hp, hheld, hfree⟩ | hheld
  · by_cases hforce : p = 0 → force = true
    · exact ⟨_, exec_recover_released hs hp hforce (hd.mono (by omega)) hheld hfree, .released hp hheld hfree⟩
    · obtain ⟨rfl, hno⟩ : p = 0 ∧ ¬ force = true := by simpa using hforce
      obtain rfl : force = false := by simpa using hno
      exact ⟨_, exec_recover_free hs (hd.mono (by decide)) hfree, .free rfl hfree⟩
  · exact ⟨_, exec_recover_stuck hs hd hheld, .stuck hheld⟩

/-! ### The claims -/

/-- Settles O31: a line held at the first sample ends in one of the two outcomes with a STOP; a free one is
`exec_recover_free` or, forced, `exec_recover_released` after no pulse. -/
theorem recoverOfAFreeLine : Obligations.RecoverOfAFreeLine := by
  unfold Obligations.RecoverOfAFreeLine
  refine ⟨fun s force hs hd hheld => ?_, fun s force hs hd hfree => ?_⟩
  · obtain ⟨t, hrun, hout⟩ := exec_recover_outcome (force := force) hs hd
    refine ⟨t, ?_⟩
    cases hout with
    | free _ hfree => simp [hheld] at hfree
    | @released p | stuck =>
      obtain ⟨hlines, -⟩ := recoverEnd_facts (s := s) _ hs.legal force
      exact ⟨_, hrun, hlines.trans List.map_append⟩
  · cases force with
    | true =>
      obtain ⟨hlines, hidle, hrsp, herr, hsbit, hcnt, hackf, hline⟩ := recoverEnd_facts (p := 0) .ok hs.legal true
      exact ⟨_, exec_recover_released hs (Nat.zero_le 10) (fun _ => rfl) hd nofun hfree, hlines, hidle, hrsp, herr,
        hsbit.trans hfree, hcnt, hackf, hline⟩
    | false =>
      obtain ⟨hlines, hsbit, hline⟩ := recoverFree_facts hs.legal
      exact ⟨_, exec_recover_free hs hd hfree, hlines, rfl, rfl, rfl, hsbit.trans hfree, rfl, rfl, hline⟩

/-- Settles O32: `exec_recover_released` and what it leaves in the registers. -/
theorem recoverOfALineReleasedAfterPulses : Obligations.RecoverOfALineReleasedAfterPulses := by
  unfold Obligations.RecoverOfALineReleasedAfterPulses
  intro s force p hs hpos hp hd hheld hfree
  obtain ⟨hlines, hidle, hrsp, herr, hsbit, hcnt, hackf, hline⟩ := recoverEnd_facts (p := p) .ok hs.legal force
  exact ⟨_, exec_recover_released hs hp (by omega) hd hheld hfree, hlines, hidle, hrsp, herr, hsbit.trans hfree,
    withPulses_toNat hp s, hackf, hline⟩

/-- Settles O33: `exec_recover_stuck` and what it leaves in the registers. -/
theorem recoverOfAStuckLine : Obligations.RecoverOfAStuckLine := by
  unfold Obligations.RecoverOfAStuckLine
  intro s force hs hd hheld
  obtain ⟨hlines, hidle, hrsp, herr, hsbit, hcnt, hackf, hline⟩ := recoverEnd_facts (p := 10) .busStuck hs.legal force
  exact ⟨_, exec_recover_stuck hs hd fun k hk => hheld k (by omega), hlines, hidle, hrsp, herr,
    hsbit.trans (hheld 10 (by decide)), hcnt, hackf, hline⟩

end Sys2Proof.Machine
end

section
/-! PROOFS. A recovery ends as its samples say, and within its bound in every environment (R163). -/

namespace Sys2Proof.Machine

variable {s t u : State} {l : Line} {force : Bool}

/-! ### The answer and the samples -/

/-- At most one sample is the first that finds the line free. -/
theorem released_unique {p q : Nat} (hp : HeldFor s p ∧ s.world.sampleAt s.cfg p = true)
    (hq : HeldFor s q ∧ s.world.sampleAt s.cfg q = true) : p = q := by
  rcases Nat.lt_trichotomy p q with hlt | heq | hlt
  · simp [hq.1 p hlt] at hp
  · exact heq
  · simp [hp.1 q hlt] at hq

/-- The answer tells the samples: {OK, p, 0, 0} that the p-th, counted from 0, is the first to find the line free,
{BUS_STUCK, 10, 0, 0} that none does (R163). -/
structure AnswerTellsSamples (s t : State) : Prop where
  ok : ∀ p, p ≤ 10 → (t.rsp = some (packWord 0x00 (BitVec.ofNat 8 p) 0 0) ↔
    HeldFor s p ∧ s.world.sampleAt s.cfg p = true)
  stuck : t.rsp = some (packWord 0x04 10 0 0) ↔ HeldFor s 11

theorem AnswerTellsSamples_released {q : Nat} (hq : q ≤ 10) (hfirst : HeldFor s q ∧ s.world.sampleAt s.cfg q = true)
    (hrsp : t.rsp = some (packWord 0x00 (BitVec.ofNat 8 q) 0 0)) : AnswerTellsSamples s t where
  ok p hp := by
    rw [hrsp]
    refine ⟨fun h => ?_, fun h => by rw [released_unique h hfirst]⟩
    obtain ⟨-, hcnt, -⟩ := packWord_inj.mp (Option.some.inj h)
    have hqp := congrArg BitVec.toNat hcnt
    rw [toNat_ofNat_byte (by omega), toNat_ofNat_byte (by omega)] at hqp
    rwa [← hqp]
  stuck := by
    rw [hrsp]
    refine iff_of_false (fun h => ?_) fun h => ?_
    · obtain ⟨hst, -⟩ := packWord_inj.mp (Option.some.inj h)
      exact absurd hst (by decide)
    · simp [h q (by omega)] at hfirst

theorem AnswerTellsSamples_stuck (hheld : HeldFor s 11) (hrsp : t.rsp = some (packWord 0x04 10 0 0)) :
    AnswerTellsSamples s t where
  ok p hp := by
    rw [hrsp]
    refine iff_of_false (fun h => ?_) fun h => ?_
    · obtain ⟨hst, -⟩ := packWord_inj.mp (Option.some.inj h)
      exact absurd hst (by decide)
    · simp [hheld p (by omega)] at h
  stuck := iff_of_true hrsp hheld

theorem RecoverOutcome.answerTellsSamples (h : RecoverOutcome force s t) : AnswerTellsSamples s t := by
  cases h with
  | free _ hfree => exact AnswerTellsSamples_released (Nat.zero_le 10) ⟨nofun, hfree⟩ rfl
  | released hp hheld hfree => exact AnswerTellsSamples_released hp ⟨hheld, hfree⟩ rfl
  | stuck hheld => exact AnswerTellsSamples_stuck hheld rfl

/-! ### The states of a recovery -/

/-- IDLE and the states of R161. -/
def Fsm.ofRecovery : Fsm → Bool
  | .start | .address | .ackAddr | .dataPhase | .ackData | .single => false
  | .idle | .stop | .recSample | .recPulse => true

/-- The state with everything blanked out that a recovery writes once FORCE is latched; what is left is its frame. -/
def recoveryFrame (s : State) : State :=
  { s with
    portOut := 0, portDir := 0, pulsecnt := 0, sbit := false, err := 0, fsm := .idle, phase := 0, cur := none
    stopStatus := .ok, rsp := none, trace := [], world := State.reset.world }

theorem recoveryFrame_performed (l : Line) (s : State) : recoveryFrame (performed l s) = recoveryFrame s := by
  obtain ⟨p, hp⟩ := performed_eq l s
  rw [hp]
  cases l <;> rfl

/-- Where a sub-sequence of a recovery leads (R161): to the answer, to STOP, or to a pulse. -/
inductive RecoverySeqEnd (s : State) : State → Prop
  | answered (st : Status) (c : Byte) : RecoverySeqEnd s (respond st c 0 s)
  | stop (st : Status) (hf : s.fsm = .recSample ∨ s.fsm = .recPulse) : RecoverySeqEnd s (enterStop st s)
  | firstPulse (hf : s.fsm = .recSample) : RecoverySeqEnd s (enter .recPulse s)
  | nextPulse (hf : s.fsm = .recPulse) (hp : s.pulsecnt.toNat < Config.recoverMaxPulses) :
      RecoverySeqEnd s (enter .recPulse s)

/-- Its rows are those of `SeqEnd` that begin in a state of a recovery. -/
theorem SeqEnd.recoverySeqEnd (he : SeqEnd s t) (h : s.fsm.ofRecovery = true) : RecoverySeqEnd s t := by
  cases he with
  | stopped | lineFree => exact .answered _ _
  | lineForced hf => exact .stop _ (.inl hf)
  | pulseLast hf => exact .stop _ (.inr hf)
  | lineHeld hf => exact .firstPulse hf
  | pulseHeld hf hp => exact .nextPulse hf hp
  | started hf | addressBit hf | addressByte hf | addressOnly hf | addressAcked hf | bitSent hf | bitReceived hf
  | byteSent hf | byteReceived hf | byteAnswered hf | byteAcked hf | byteNacked hf | single hf | wbyteLast hf
  | wbyteBit hf | rbyteBit hf => simp [hf, Fsm.ofRecovery] at h

/-! ### The bound -/

/-- The most line steps that follow the current sub-sequence of a recovery: a pulse for each one left, and the STOP. -/
def linesAfter (s : State) : List Line :=
  match s.fsm with
  | .recSample => pulseLines ++ (List.replicate (pulsesLeft s) pulseLines).flatten ++ stopLines
  | .recPulse => (List.replicate (pulsesLeft s) pulseLines).flatten ++ stopLines
  | .idle | .start | .address | .ackAddr | .dataPhase | .ackData | .stop | .single => []

/-- The most line steps to come in a recovery. -/
def linesAhead (s : State) : List Line := (currentSeq s).drop s.phase ++ linesAfter s

theorem linesAfter_congr (hf : t.fsm = s.fsm)
    (hp : s.fsm = .recSample ∨ s.fsm = .recPulse → pulsesLeft t = pulsesLeft s) : linesAfter t = linesAfter s := by
  simp only [linesAfter, hf]
  cases hs : s.fsm with
  | recSample => rw [hp (.inl hs)]
  | recPulse => rw [hp (.inr hs)]
  | idle | start | address | ackAddr | dataPhase | ackData | stop | single => rfl

/-- PULSECNT is at most 10, and less before the pulse to come is counted (R30, R163). -/
structure PulsesBounded (s : State) : Prop where
  le : s.pulsecnt.toNat ≤ 10
  lt : s.fsm = .recSample ∨ s.fsm = .recPulse → s.phase ≤ 1 → s.pulsecnt.toNat < 10

theorem pulsesLeft_enter (s : State) :
    pulsesLeft (enter .recPulse s) = Config.recoverMaxPulses - (s.pulsecnt + 1).toNat := rfl

/-- A sub-sequence of a recovery leads to one of its states, with the frame kept and PULSECNT in its bound, and to no line
step that `linesAfter` does not foresee. -/
theorem RecoverySeqEnd.bounded (he : RecoverySeqEnd s t) (hb : PulsesBounded s) (hq : s.fsm = .recSample → s.phase ≤ 1)
    (hp : s.fsm = .recPulse → ¬ s.phase ≤ 1) :
    t.fsm.ofRecovery = true ∧ recoveryFrame t = recoveryFrame s ∧ PulsesBounded t ∧
      (linesAhead t).Sublist (linesAfter s) := by
  cases he with
  | answered => exact ⟨rfl, rfl, ⟨hb.le, nofun⟩, List.nil_sublist _⟩
  | stop st hf =>
    refine ⟨rfl, rfl, ⟨hb.le, nofun⟩, ?_⟩
    show stopLines.Sublist _
    rcases hf with hf | hf <;> simp only [linesAfter, hf] <;> exact List.sublist_append_right _ _
  | firstPulse hf =>
    refine ⟨rfl, rfl, ⟨hb.le, fun _ _ => hb.lt (.inl hf) (hq hf)⟩, ?_⟩
    have hleft : pulsesLeft (enter .recPulse s) = pulsesLeft s := by
      rw [pulsesLeft_enter, pulsesLeft, if_pos (hq hf)]
    show (pulseLines ++ ((List.replicate (pulsesLeft (enter .recPulse s)) pulseLines).flatten ++ stopLines)).Sublist _
    simp only [linesAfter, hf, hleft, List.append_assoc]
    exact List.Sublist.refl _
  | nextPulse hf hlt =>
    refine ⟨rfl, rfl, ⟨hb.le, fun _ _ => hlt⟩, ?_⟩
    have hleft : pulsesLeft s = pulsesLeft (enter .recPulse s) + 1 := by
      have hten : s.pulsecnt.toNat < 10 := hlt
      rw [pulsesLeft_enter, pulsesLeft, if_neg (hp hf), Config.recoverMaxPulses]
      bv_omega
    show (pulseLines ++ ((List.replicate (pulsesLeft (enter .recPulse s)) pulseLines).flatten ++ stopLines)).Sublist _
    simp only [linesAfter, hf, hleft, List.replicate_succ, List.flatten_cons, List.append_assoc]
    exact List.Sublist.refl _

/-! ### The run -/

/-- What the run of a recovery keeps, from its entry state s on: its place, its frame, the bound of PULSECNT, and that
the line steps performed and those to come are among those of the longest recovery. -/
structure RecoveryRun (s u : State) : Prop where
  fsm : u.fsm.ofRecovery = true
  frame : recoveryFrame u = recoveryFrame s
  pulses : PulsesBounded u
  trace : ∃ es, u.trace = s.trace ++ es ∧
    (es.filterMap Event.line ++ linesAhead u).Sublist (recoverLines 10 ++ stopLines)

theorem RecoveryRun_entry (s : State) (force : Bool) :
    RecoveryRun (entry s (.recover force)) (entry s (.recover force)) :=
  ⟨rfl, rfl, ⟨Nat.zero_le _, fun _ _ => show 0 < 10 by decide⟩, [], (List.append_nil _).symm, List.Sublist.refl _⟩

/-- The next line step is the first of those to come. -/
theorem linesAhead_eq_cons (hn : nextLine s = some l) :
    linesAhead s = l :: ((currentSeq s).drop (s.phase + 1) ++ linesAfter s) := by
  obtain ⟨hlt, hget⟩ := List.getElem?_eq_some_iff.mp hn
  rw [linesAhead, List.drop_eq_getElem_cons hlt, hget, List.cons_append]

theorem performed_trace (l : Line) (s : State) : ∃ v, (performed l s).trace = s.trace ++ [.done l v] := by
  obtain ⟨p, hp⟩ := performed_eq l s
  obtain ⟨v, hv⟩ := perform_trace l (takeAck s)
  exact ⟨v, by rw [hp]; exact hv⟩

/-- The last line step of a sub-sequence counts no pulse. -/
theorem PulsesBounded_last (h : PulsesBounded s) (l : Line) (hp : s.fsm = .recPulse → ¬ s.phase ≤ 1) :
    PulsesBounded (performed l s) := by
  have hno : ¬ (s.fsm = .recPulse ∧ s.phase = 1) := fun h => hp h.1 (by omega)
  have hsame : (performed l s).pulsecnt = s.pulsecnt := by rw [performed_pulsecnt, if_neg hno]
  exact ⟨hsame ▸ h.le, fun hf hph => hsame ▸ h.lt (by simpa using hf) (by simpa using hph)⟩

/-- Of the line steps before it the second of REC_PULSE counts one, which the bound foresees (R160). -/
theorem PulsesBounded_next (h : PulsesBounded s) (l : Line) :
    PulsesBounded (setPhase (s.phase + 1) (performed l s)) := by
  have hcnt := performed_pulsecnt l s
  by_cases hc : s.fsm = .recPulse ∧ s.phase = 1
  · obtain ⟨hf, hp⟩ := hc
    have hlt := h.lt (.inr hf) hp.le
    rw [if_pos ⟨hf, hp⟩] at hcnt
    refine ⟨?_, fun _ hph => ?_⟩
    · show (performed l s).pulsecnt.toNat ≤ 10
      rw [hcnt]
      bv_omega
    · exact absurd (show s.phase + 1 ≤ 1 from hph) (by omega)
  · rw [if_neg hc] at hcnt
    refine ⟨show (performed l s).pulsecnt.toNat ≤ 10 from hcnt ▸ h.le, fun hf hph => ?_⟩
    have hle : s.phase + 1 ≤ 1 := hph
    show (performed l s).pulsecnt.toNat < 10
    rw [hcnt]
    exact h.lt (by simpa using hf) (by omega)

theorem RecoveryRun_primStep (h : RecoveryRun s u) : RecoveryRun s (primStep u) := by
  obtain ⟨hf, hframe, hpulses, es, htr, hsub⟩ := h
  have ho := primStep_outcome u
  generalize primStep u = t at ho
  cases ho with
  | lost => exact ⟨hf, hframe, hpulses, es, htr, hsub⟩
  | wait => exact ⟨hf, hframe, ⟨hpulses.le, hpulses.lt⟩, es, htr, hsub⟩
  | fault =>
    refine ⟨rfl, hframe, ⟨hpulses.le, nofun⟩, es ++ [.fault], by rw [respond_trace, htr, List.append_assoc], ?_⟩
    have hlines : (es ++ [Event.fault]).filterMap Event.line = es.filterMap Event.line := by simp [Event.line]
    rw [hlines]
    exact ((List.append_sublist_append_left _).mpr (List.nil_sublist _)).trans hsub
  | @next l hn _ hlt =>
    obtain ⟨v, hv⟩ := performed_trace l u
    refine ⟨by simpa using hf, (recoveryFrame_performed l u).trans hframe, PulsesBounded_next hpulses l,
      es ++ [.done l v], by rw [setPhase_trace, hv, htr, List.append_assoc], ?_⟩
    have hafter : linesAfter (setPhase (u.phase + 1) (performed l u)) = linesAfter u :=
      linesAfter_congr (by simp) fun hr => pulsesLeft_next l hr hlt
    rw [linesAhead_eq_cons hn] at hsub
    rw [linesAhead, hafter, currentSeq_setPhase, currentSeq_performed, setPhase_phase, List.filterMap_append,
      List.append_assoc]
    exact hsub
  | @last l t hn _ hge he =>
    obtain ⟨v, hv⟩ := performed_trace l u
    obtain ⟨hlen, -⟩ := List.getElem?_eq_some_iff.mp hn
    have hq : u.fsm = .recSample → u.phase ≤ 1 := fun hf => by
      simp only [currentSeq, hf, recSampleSeq, List.length_cons, List.length_nil] at hlen
      omega
    have hp : u.fsm = .recPulse → ¬ u.phase ≤ 1 := fun hf => by
      simp only [currentSeq, hf, recPulseSeq, List.length_cons, List.length_nil] at hge
      omega
    obtain ⟨hf', hframe', hpulses', hsub'⟩ := (he.recoverySeqEnd (by simpa using hf)).bounded
      (PulsesBounded_last hpulses l hp) (by simpa using hq) (by simpa using hp)
    have hafter : linesAfter (performed l u) = linesAfter u :=
      linesAfter_congr (by simp) fun _ => pulsesLeft_last l hp
    refine ⟨hf', hframe'.trans ((recoveryFrame_performed l u).trans hframe), hpulses', es ++ [.done l v],
      by rw [he.same.trace, hv, htr, List.append_assoc], ?_⟩
    rw [linesAhead_eq_cons hn, List.drop_eq_nil_of_le hge, List.nil_append, ← hafter] at hsub
    rw [List.filterMap_append, List.append_assoc]
    exact ((List.append_sublist_append_left _).mpr (hsub'.cons_cons l)).trans hsub

/-- The run of a recovery in every environment, faults and waits included. -/
theorem RecoveryRun_exec (h : exec (.recover force) s = .next t) : RecoveryRun (entry s (.recover force)) t := by
  cases h
  exact advance_induction (P := RecoveryRun (entry s (.recover force))) (fun _ hu _ => RecoveryRun_primStep hu) _
    (RecoveryRun_entry s force)

/-- A FAULT event counts as no line step. -/
theorem count_map_line (l : Line) (es : List Event) :
    (es.map Event.line).count (some l) = (es.filterMap Event.line).count l := by
  induction es with
  | nil => rfl
  | cons e es ih =>
    cases e with
    | done l' v => simp [Event.line, List.count_cons, ih]
    | fault =>
      rw [List.filterMap_cons_none rfl, ← ih]
      exact List.count_cons_of_ne (show (none : Option Line) ≠ some l by nofun)

/-- A recovery performs no line step more often than the longest recovery does. -/
theorem count_linesBetween_recover (h : exec (.recover force) s = .next t) (l : Line) :
    (linesBetween s t).count (some l) ≤ (recoverLines 10 ++ stopLines).count l := by
  obtain ⟨-, -, -, es, htr, hsub⟩ := RecoveryRun_exec h
  rw [entry_trace] at htr
  rw [linesBetween, eventsBetween_of_trace htr, count_map_line]
  exact ((List.sublist_append_left _ _).trans hsub).count_le l

/-! ### The claims -/

/-- Settles O34: the bounds are those of every run (`RecoveryRun_exec`); with all primitives done the answer is the one of
the outcome that the samples name (`exec_recover_outcome`). -/
theorem recoverEndsAsItsSamplesSay : Obligations.RecoverEndsAsItsSamplesSay := by
  unfold Obligations.RecoverEndsAsItsSamplesSay
  refine ⟨fun s t force hs h => ⟨(RecoveryRun_exec h).pulses.le, count_linesBetween_recover h .sample,
    count_linesBetween_recover h (.scl true)⟩, fun s t force hs hd h => ?_⟩
  obtain ⟨t', hrun, hout⟩ := exec_recover_outcome (force := force) hs hd
  obtain rfl : t' = t := Host.Outcome.next.inj (hrun.symm.trans h)
  obtain ⟨hok, hstuck⟩ := hout.answerTellsSamples
  exact ⟨hok, hstuck.trans (forall_congr' fun k => by rw [Nat.lt_succ_iff])⟩

/-- Settles O42: the frame of the run gives the registers, ACKF and the buffers; the auxiliary bits and the directions have
their own laws for every command (`auxSame_portOut_exec`, `DirsKept_exec`). -/
theorem recoverFrame : Obligations.RecoverFrame := by
  unfold Obligations.RecoverFrame
  intro s t force h
  have key {α : Type} (f : State → α) : f (recoveryFrame t) = f (recoveryFrame (entry s (.recover force))) :=
    congrArg f (RecoveryRun_exec h).frame
  obtain ⟨es, -, hdir⟩ := DirsKept_exec h
  exact ⟨key (·.cfg), key (·.shreg), key (·.bitcnt), key (·.bytecnt), key (·.addrb), key (·.rw), key (·.len),
    key (·.force), key (·.ackf), key (·.epoch), auxSame_portOut_exec rfl h,
    fun j hj => (hdir j (not_writesDir_of_not_auxset rfl hj)).1, fun a => key (readTx · a), fun a => key (readRx · a)⟩

end Sys2Proof.Machine
end

section
/-! PROOFS. The port and buffer commands AUXSET, TXWR and RXRD (R170 to R172), and the auxiliary bits of the port under
every other command (R173). -/

namespace Sys2Proof.Machine

variable {s t u : State} {i : Instr} {l : Line} {bit : Fin 8} {value : Bool}

/-! ### AUXSET is one sub-sequence (R170) -/

/-- AUXSET of an auxiliary bit is accepted in state SINGLE. -/
theorem entry_auxset (haux : s.cfg.isI2c bit = false) :
    entry s (.auxset bit value) = accept (.auxset bit value) .single s :=
  if_neg (by simp [haux])

theorem wf_auxset {c : Config} (haux : c.isI2c bit = false) : (Instr.auxset bit value).wf c = true := by
  simp [Instr.wf, haux]

theorem exec_auxset_i2c (hi2c : s.cfg.isI2c bit = true) : exec (.auxset bit value) s = .next (illegalCmd s) :=
  if_pos hi2c

theorem currentSeq_auxset (hf : u.fsm = .single) (hc : u.cur = some (.auxset bit value)) :
    currentSeq u = auxSeq bit value := by
  simp only [currentSeq, hf, hc, singleSeq]

theorem currentSeq_entry_auxset (haux : s.cfg.isI2c bit = false) :
    currentSeq (entry s (.auxset bit value)) = auxSeq bit value := by
  rw [entry_auxset haux]
  exact currentSeq_auxset rfl rfl

/-- The state in which AUXSET ends when both its primitives are done. -/
theorem endOfSeq_auxset (haux : s.cfg.isI2c bit = false) :
    endOfSeq (auxSeq bit value) s (.auxset bit value) =
      respond .ok 0 0 (setPhase 1 (performAll (auxSeq bit value) (accept (.auxset bit value) .single s))) := by
  rw [endOfSeq, entry_auxset haux]
  rfl

/-- No auxiliary bit is one of the line state (R23). -/
theorem lineState_of_other_bits_kept (hcfg : t.cfg = s.cfg) (haux : s.cfg.isI2c bit = false)
    (hout : ∀ j, j ≠ bit → testBit t.portOut j = testBit s.portOut j)
    (hdir : ∀ j, j ≠ bit → testBit t.portDir j = testBit s.portDir j) : t.lineState = s.lineState := by
  obtain ⟨hscl, hsda⟩ : bit ≠ s.cfg.sclBit ∧ bit ≠ s.cfg.sdaBit := by simpa [Config.isI2c] using haux
  simp only [State.lineState, State.scl, State.sda, State.sdaOe, hcfg, hout _ hscl.symm, hout _ hsda.symm,
    hdir _ hsda.symm]

/-- A fault at the second primitive finds the first one done. -/
theorem exec_auxset_fault_dir (hs : s.fsm = .idle) (haux : s.cfg.isI2c bit = false)
    (hd : s.world.ackAt 0 = .done) (hx : s.world.ackAt 1 = .fault) :
    exec (.auxset bit value) s =
      .next (busTimeout (.auxDir bit)
        (takeAck (setPhase 1 (performAll [.auxOut bit value] (accept (.auxset bit value) .single s))))) := by
  have hdone : s.world.AllDone 1 := fun k hk => by rwa [Nat.lt_one_iff.mp hk]
  rw [exec_eq_advance_entry _ hs, entry_auxset haux]
  have hL : currentSeq (accept (.auxset bit value) .single s) = auxSeq bit value := currentSeq_auxset rfl rfl
  exact congrArg _ (advance_fault 1 (Config.maxPrimitives - 2) hL rfl rfl nofun nofun hdone hx)

/-- Settles O35: both primitives insert their one bit, which is no bit of the line state; a fault at the second one comes
after the first is done (`exec_auxset_fault_dir`). -/
theorem auxsetWritesOneAuxiliaryBit : Obligations.AuxsetWritesOneAuxiliaryBit := by
  unfold Obligations.AuxsetWritesOneAuxiliaryBit
  have hlen : 2 ≤ Config.maxPrimitives := by decide
  refine fun s bit value hs => ⟨fun haux => ⟨⟨fun hd => ?done, fun k hk hd hx => ?fault⟩, fun hd hx => ?faultDir⟩,
    fun hi2c => exec_auxset_i2c hi2c⟩
  case done =>
    have hend := endOfSeq_auxset (value := value) haux
    obtain ⟨es, hes, hline, -⟩ := eventsBetween_endOfSeq (auxSeq bit value) s (.auxset bit value)
    refine ⟨_, exec_single_done hs.idle rfl (wf_auxset haux) (currentSeq_entry_auxset haux) hlen hd
      (by rw [hend]; rfl), by rw [linesBetween, hes, hline]; rfl, ?_⟩
    rw [hend]
    have hout (j : Fin 8) : testBit (insertBit s.portOut bit value) j =
        if j = bit then value else testBit s.portOut j := testBit_insertBit ..
    have hdir (j : Fin 8) : testBit (maskedWrite s.portDir (bitMask bit) (bitMask bit)) j =
        if j = bit then true else testBit s.portDir j := by rw [maskedWrite_set, testBit_insertBit]
    exact ⟨rfl, hout, hdir, lineState_of_other_bits_kept rfl haux (fun j hj => (hout j).trans (if_neg hj))
      (fun j hj => (hdir j).trans (if_neg hj)), rfl, rfl, rfl, rfl⟩
  case fault =>
    exact exec_single_fault hs.idle rfl (wf_auxset haux) (currentSeq_entry_auxset haux) hlen hk hd hx
  case faultDir =>
    refine ⟨_, exec_auxset_fault_dir hs.idle haux hd hx, ?_, rfl⟩
    exact (testBit_insertBit ..).trans (if_pos rfl)

/-! ### The frame of AUXSET -/

/-- The state with everything AUXSET writes blanked out, of the two port registers the named bit alone; what is left is
its frame. -/
def auxFrame (bit : Fin 8) (s : State) : State :=
  { s with
    portOut := insertBit s.portOut bit false, portDir := insertBit s.portDir bit false, err := 0, fsm := .idle
    phase := 0, cur := none, rsp := none, trace := [], world := State.reset.world }

theorem testBit_of_insertBit_eq {v w : Byte} {b : Bool} (h : insertBit v bit b = insertBit w bit b) {j : Fin 8}
    (hj : j ≠ bit) : testBit v j = testBit w j := by
  simpa [hj] using congrArg (testBit · j) h

/-- What AUXSET has kept of state s, and that it is over or at its two primitives. -/
structure AuxsetRun (s : State) (bit : Fin 8) (value : Bool) (u : State) : Prop where
  frame : auxFrame bit u = auxFrame bit s
  place : u.fsm ≠ .idle → u.fsm = .single ∧ u.cur = some (.auxset bit value)

theorem auxFrame_performed (hf : u.fsm = .single) (hl : l ∈ auxSeq bit value) :
    auxFrame bit (performed l u) = auxFrame bit u := by
  rw [performed_single l hf]
  have hcases : l = .auxOut bit value ∨ l = .auxDir bit := by simpa [auxSeq] using hl
  rcases hcases with rfl | rfl <;> simp [auxFrame]

/-- The end of AUXSET's sub-sequence is its response. -/
theorem SeqEnd.auxsetRun (he : SeqEnd u t) (hf : u.fsm = .single) (hc : u.cur = some (.auxset bit value)) :
    AuxsetRun u bit value t := by
  cases he with
  | single => exact ⟨rfl, nofun⟩
  | wbyteLast _ h | wbyteBit _ h | rbyteBit _ h => cases hc.symm.trans h
  | started h | addressBit h | addressByte h | addressOnly h | addressAcked h | bitSent h | bitReceived h | byteSent h
  | byteReceived h | byteAnswered h | byteAcked h | byteNacked h | stopped h | lineFree h | lineForced h | lineHeld h
  | pulseLast h | pulseHeld h => cases hf.symm.trans h

theorem PrimOutcome.auxsetRun (ho : PrimOutcome u t) (hf : u.fsm = .single)
    (hc : u.cur = some (.auxset bit value)) : AuxsetRun u bit value t := by
  have hperf {l : Line} (hn : nextLine u = some l) : auxFrame bit (performed l u) = auxFrame bit u :=
    auxFrame_performed hf (currentSeq_auxset hf hc ▸ List.mem_of_getElem? hn)
  cases ho with
  | lost | wait => exact ⟨rfl, fun _ => ⟨hf, hc⟩⟩
  | next hn => exact ⟨hperf hn, fun _ => ⟨(performed_fsm ..).trans hf, (performed_cur ..).trans hc⟩⟩
  | last hn _ _ he =>
    obtain ⟨hframe, hplace⟩ := he.auxsetRun ((performed_fsm ..).trans hf) ((performed_cur ..).trans hc)
    exact ⟨hframe.trans (hperf hn), hplace⟩
  | fault => exact ⟨rfl, nofun⟩

theorem auxFrame_exec (h : exec (.auxset bit value) s = .next t) : auxFrame bit t = auxFrame bit s := by
  rcases exec_cases h with rfl | ⟨hw, rfl⟩
  · rfl
  · rw [entry_auxset (by simpa [Instr.wf] using hw)]
    suffices hrun : AuxsetRun s bit value (advance _ (accept (.auxset bit value) .single s)) from hrun.frame
    refine advance_induction (fun u hu hb => ?_) _ ⟨rfl, fun _ => ⟨rfl, rfl⟩⟩
    obtain ⟨hf, hc⟩ := hu.place hb
    obtain ⟨hframe, hplace⟩ := (primStep_outcome u).auxsetRun hf hc
    exact ⟨hframe.trans hu.frame, hplace⟩

/-- Settles O43: the frame of the run gives the registers, all bits of the port but the named one, and the buffers. -/
theorem auxsetFrame : Obligations.AuxsetFrame := by
  unfold Obligations.AuxsetFrame
  intro s t bit value h
  have key {α : Type} (f : State → α) : f (auxFrame bit t) = f (auxFrame bit s) := congrArg f (auxFrame_exec h)
  exact ⟨key (·.cfg), key (·.shreg), key (·.bitcnt), key (·.bytecnt), key (·.pulsecnt), key (·.addrb), key (·.rw),
    key (·.len), key (·.force), key (·.ackf), key (·.sbit), key (·.stopStatus), key (·.epoch),
    fun _ => testBit_of_insertBit_eq (key (·.portOut)), fun _ => testBit_of_insertBit_eq (key (·.portDir)),
    fun a => key (readTx · a), fun a => key (readRx · a)⟩

/-! ### The auxiliary bits in the trace of a bus command -/

/-- An Out event carries PORT_OUT after it (R11). -/
theorem perform_trace_out (l : Line) (s : State) :
    ∃ v, (perform l s).trace = s.trace ++ [.done l v] ∧
      ∀ w, (Event.done l v).full = .out w → w = (perform l s).portOut := by
  cases l with
  | scl | sda | auxOut => exact ⟨_, rfl, fun w h => by simpa [Event.full, eq_comm] using h⟩
  | oe | auxDir | sample => exact ⟨_, rfl, nofun⟩

theorem primStep_trace_out (s : State) :
    ∃ es, (primStep s).trace = s.trace ++ es ∧ ∀ e ∈ es, ∀ w, e.full = .out w → w = (primStep s).portOut := by
  rcases primStep_cases s with ⟨he, -⟩ | ⟨l, -, ⟨-, hd⟩ | ⟨-, hw⟩ | ⟨-, w, hf⟩⟩
  · exact ⟨[], by simp [he], nofun⟩
  · obtain ⟨v, htr, hout⟩ := perform_trace_out l (takeAck s)
    exact ⟨[.done l v], hd.trace.trans htr, fun e he w hfull =>
      (hout w (List.mem_singleton.mp he ▸ hfull)).trans hd.portOut.symm⟩
  · exact ⟨[], by simp [hw], nofun⟩
  · exact ⟨[.fault], by rw [hf]; rfl, fun e he w hfull => by cases List.mem_singleton.mp he; cases hfull⟩

/-- From s to t the auxiliary bits of PORT_OUT are kept, and so they stand in every Out event. -/
def AuxOutKept (s t : State) : Prop :=
  ∃ es, t.trace = s.trace ++ es ∧ auxSame s.cfg t.portOut s.portOut ∧
    ∀ e ∈ es, ∀ v, e.full = .out v → auxSame s.cfg v s.portOut

theorem AuxOutKept_of_eq (ho : t.portOut = s.portOut) (ht : t.trace = s.trace) : AuxOutKept s t :=
  ⟨[], by simp [ht], fun j _ => by rw [ho], nofun⟩

theorem AuxOutKept_primStep (h : AuxOutKept s u) (hc : u.cfg = s.cfg) (hi : i.isAuxset = false) (hu : u.Running i)
    (hb : u.fsm ≠ .idle) : AuxOutKept s (primStep u) := by
  obtain ⟨es, htr, hport, hes⟩ := h
  obtain ⟨ds, hds, hout⟩ := primStep_trace_out u
  have hnew : auxSame s.cfg (primStep u).portOut s.portOut := fun j hj =>
    (auxSame_portOut_primStep hi hu hb j (hc ▸ hj)).trans (hport j hj)
  refine ⟨es ++ ds, by rw [hds, htr, List.append_assoc], hnew, fun e he v hfull => ?_⟩
  rcases List.mem_append.mp he with he | he
  · exact hes e he v hfull
  · exact hout e he v hfull ▸ hnew

theorem AuxOutKept_exec (hi : i.isAuxset = false) (h : exec i s = .next t) : AuxOutKept s t :=
  (exec_running_induction (P := fun u => u.cfg = s.cfg ∧ AuxOutKept s u) ⟨rfl, AuxOutKept_of_eq rfl rfl⟩
    ⟨(entry_keeps s i).1, AuxOutKept_of_eq (entry_portOut s i) (entry_trace s i)⟩
    (fun _ u hu ⟨hc, hP⟩ hb => ⟨(primStep_keeps u).1.trans hc, AuxOutKept_primStep hP hc hi hu hb⟩) h).2

/-- Settles O38: the Out events are those of `AuxOutKept_exec`; the Dir events write no bit but the data line's
(`DirsKept_exec`), which is neither an auxiliary bit nor the clock's. -/
theorem auxiliaryBitsSurviveEveryBusCommand : Obligations.AuxiliaryBitsSurviveEveryBusCommand := by
  unfold Obligations.AuxiliaryBitsSurviveEveryBusCommand
  intro s t i hi h
  obtain ⟨es, htr, hport, hout⟩ := AuxOutKept_exec hi h
  obtain ⟨ds, hds, hdir⟩ := DirsKept_exec h
  obtain rfl : ds = es := List.append_cancel_left (hds.symm.trans htr)
  have hkept (j : Fin 8) (hj : j ≠ s.cfg.sdaBit) := hdir j (not_writesDir_of_not_auxset hi hj)
  refine ⟨⟨ds, htr, fun e he => ?_⟩, hport, fun j hj => (hkept j hj).1⟩
  cases hfull : e.full with
  | out v => exact hout e he v hfull
  | dir d =>
    have hbit (j : Fin 8) (hj : j ≠ s.cfg.sdaBit) : testBit d j = testBit s.portDir j := (hkept j hj).2 e he d hfull
    refine ⟨fun j hj => hbit j ?_, hbit, fun hl hclk => (hbit _ ?_).trans hclk⟩
    · rintro rfl
      simp [Config.isI2c] at hj
    · simpa [Config.legal] using hl
  | inp | fault => trivial

/-! ### TXWR and RXRD -/

/-- A response of an idle engine changes nothing but ERR and the response port; the position is that of an idle engine
(R10, R38). -/
theorem respond_of_idle (hs : s.fsm = .idle) (st : Status) (cnt val : Byte) :
    respond st cnt val s = { s with rsp := some (response st cnt val), err := st.code, phase := 0, cur := none } := by
  rw [respond, ← hs]

/-- Settles O36: the response to the store, and the laws of the stored buffer. -/
theorem txwrStoresOneByte : Obligations.TxwrStoresOneByte := by
  unfold Obligations.TxwrStoresOneByte
  intro s idx b hs
  exact ⟨s.txbuf.write idx.toNat b, congrArg _ (respond_of_idle (s := writeTx idx b s) hs.idle .ok 0 0),
    readTx_writeTx_same idx b s, fun j hj => readTx_writeTx_other idx j b s hj⟩

/-- Settles O37: the response of an idle engine, with the byte read in VAL. -/
theorem rxrdAnswersTheBufferByte : Obligations.RxrdAnswersTheBufferByte := by
  unfold Obligations.RxrdAnswersTheBufferByte
  intro s idx hs
  exact congrArg _ (respond_of_idle hs.idle .ok 0 (readRx s idx))

end Sys2Proof.Machine
end

section
/-! PROOFS. One blocking call of the host (R8, R40, R41): the command run to its response on an engine whose pins the host
drives, and what it leaves to the calls after it. -/

namespace Sys2Proof.Machine

variable {s t q : State} {i : Instr} {L : List Line} {r : Word}

/-! ### The host's pins are no part of a command -/

@[simp] theorem withPins_cfg (ps : List HostPins) (s : State) : (withPins ps s).cfg = s.cfg := rfl

@[simp] theorem withPins_ackAt (ps : List HostPins) (s : State) (k : Nat) :
    (withPins ps s).world.ackAt k = s.world.ackAt k := World.ackAt_congr (withPins ps s).world s.world rfl rfl k

@[simp] theorem withPins_sampleAt (ps : List HostPins) (s : State) (c : Config) (k : Nat) :
    (withPins ps s).world.sampleAt c k = s.world.sampleAt c k :=
  congrArg (testBit · c.sdaBit) (World.inAt_congr (withPins ps s).world s.world rfl rfl k)

theorem withPins_byteAt (ps : List HostPins) (s : State) (c : Config) (k : Nat) :
    (withPins ps s).world.byteAt c k = s.world.byteAt c k := by
  simp only [World.byteAt, withPins_sampleAt]

theorem State.Ready.withPins (hs : s.Ready) (ps : List HostPins) : (withPins ps s).Ready :=
  ⟨hs.legal, hs.idle, hs.noResponse⟩

theorem allDone_withPins {n : Nat} (hd : s.world.AllDone n) (ps : List HostPins) :
    (withPins ps s).world.AllDone n := hd.congr (withPins_ackAt ps s)

theorem withPins_of_pins (h : s.world.pins = []) : withPins [] s = s := by
  rw [withPins, ← h]

/-! ### One call -/

/-- A command answered in its step: the host takes the response and finds the engine ready (R8, R40, R41). -/
theorem issue_of_response (hs : s.Ready) (hw : i.wf s.cfg = true) (h : exec i (withPins [] s) = .next t)
    (hr : t.rsp = some r) : issue (encode i) s = some (takeResponse t, r) ∧ (takeResponse t).Ready := by
  have hidle : t.fsm = .idle := by
    obtain ⟨-, hn, -⟩ | ⟨hi, -⟩ := Reported_exec (hs.withPins []) h
    · simp [hr] at hn
    · exact hi
  have hl : t.cfg.legal = true := (congrArg Config.legal (exec_cfg h)).trans hs.legal
  have htake : withPins [] (takeResponse t) = takeResponse t := withPins_of_pins (exec_pins h)
  refine ⟨(issue_of_exec hs (decode_encode hw) h hl hidle hr).trans ?_, hl, hidle, rfl⟩
  exact congrArg (fun v => some (v, r)) htake

/-- Line steps that are all done are the events of a program. -/
theorem Leads.linesBetween (h : Leads L s t) : linesBetween s t = L.map some := by
  obtain ⟨es, htr, hline⟩ := performAll_trace L (portOf s)
  have htrace : t.trace = s.trace ++ es := (congrArg State.trace h.port).trans htr
  rw [Machine.linesBetween, eventsBetween_of_trace htrace, hline]

theorem Leads.byteAt (h : Leads L s t) (k : Nat) :
    t.world.byteAt t.cfg k = s.world.byteAt s.cfg (k + L.count .sample) := by
  simp only [World.byteAt, h.sampleAt, Nat.add_right_comm k _ (L.count .sample)]

/-- After a call no host pins are left, so the next call finds the engine as it is. -/
theorem Leads.withPins_nil (h : Leads L (withPins [] s) t) : withPins [] t = t := by
  obtain ⟨-, hworld⟩ := h.inputs
  exact withPins_of_pins (by rw [hworld, performAll_pins]; rfl)

/-! ### The calls of read_register -/

theorem issue_txwr (hs : s.Ready) (idx b : Byte) : ∃ t r, issue (encode (.txwr idx b)) s = some (t, r) ∧
    Leads [] (withPins [] s) t ∧ readTx t idx = b ∧ (∀ j, j ≠ idx → readTx t j = readTx s j) ∧
    ∀ j, readRx t j = readRx s j := by
  obtain ⟨hcall, hready⟩ := issue_of_response (i := .txwr idx b) hs rfl rfl rfl
  exact ⟨_, _, hcall, ⟨hready, rfl⟩, readTx_writeTx_same idx b (withPins [] s),
    fun j hj => readTx_writeTx_other idx j b (withPins [] s) hj, fun _ => rfl⟩

theorem issue_rxrd (hs : s.Ready) (idx : Byte) : ∃ t r, issue (encode (.rxrd idx)) s = some (t, r) ∧ t.Ready ∧
    rspVAL r = readRx s idx ∧ ∀ j, readRx t j = readRx s j := by
  obtain ⟨hcall, hready⟩ := issue_of_response (i := .rxrd idx) hs rfl rfl rfl
  exact ⟨_, _, hcall, hready, rspVAL_response .ok 0 (readRx s idx), fun _ => rfl⟩

/-- A transfer that ended: its response has the status it ended with. -/
theorem issue_transfer {st : Status} (hs : s.Ready) (hw : i.wf s.cfg = true)
    (h : exec i (withPins [] s) = .next (transferEnd st q L (withPins [] s))) :
    ∃ r, issue (encode i) s = some (takeResponse (transferEnd st q L (withPins [] s)), r) ∧ rspST r = st.code ∧
      Leads (L ++ stopLines) (withPins [] s) (takeResponse (transferEnd st q L (withPins [] s))) := by
  obtain ⟨hcall, hready⟩ := issue_of_response hs hw h rfl
  exact ⟨_, hcall, rspST_response st q.bytecnt 0, hready, portOf_performAll (L ++ stopLines) (withPins [] s)⟩

/-- The read-back returns the entries of RXBUF in order (R183). -/
theorem readBack_eq (hs : s.Ready) (k idx : Nat) : ∃ t, readBack k idx s =
    (t, .ok ((List.range k).map fun j => readRx s (BitVec.ofNat 8 (idx + j)))) := by
  induction k generalizing s idx with
  | zero => exact ⟨s, rfl⟩
  | succ k ih =>
    obtain ⟨t, r, hcall, hready, hval, hrx⟩ := issue_rxrd hs (BitVec.ofNat 8 idx)
    obtain ⟨u, hrest⟩ := ih hready (idx + 1)
    refine ⟨u, ?_⟩
    simp only [readBack, andThen_of_issue _ hcall, hrest, hval, hrx, List.range_succ_eq_map, List.map_cons,
      List.map_map, Function.comp_def, Nat.add_zero, Nat.succ_eq_add_one, Nat.add_assoc, Nat.add_comm 1]

end Sys2Proof.Machine
end

section
/-! PROOFS. read_register (R183): the write phase, the read phase, and the bytes read back. -/

namespace Sys2Proof.Machine

variable {s s₁ s₂ s₃ : State} {f : RegisterFormat} {dev : DeviceHandle} {reg : Byte} {len : Nat} {r₁ r₂ r₃ : Word}

/-- Success of a call is status OK (R97). -/
theorem isOk_iff {r : Word} : isOk r = true ↔ rspST r = Status.ok.code := beq_iff_eq

/-- The write phase has been answered: its status decides whether the read phase follows. -/
theorem readRegister_after_write (hpos : 1 ≤ len) (hle : len ≤ 255)
    (h₁ : issue (encode (.txwr 0 (cmdByte f reg))) s = some (s₁, r₁))
    (h₂ : issue (encode (.xferW dev.addr 1)) s₁ = some (s₂, r₂)) : readRegister f dev reg len s =
      if isOk r₂ then
        andThen (encode (.xferR dev.addr (BitVec.ofNat 8 len))) s₂ fun s₃ r₃ =>
          if isOk r₃ then readBack len 0 s₃ else (s₃, .failure (rspST r₃))
      else (s₂, .failure (rspST r₂)) := by
  rw [readRegister, if_neg (by omega), andThen_of_issue _ h₁, andThen_of_issue _ h₂]

theorem readRegister_acked (hpos : 1 ≤ len) (hle : len ≤ 255)
    (h₁ : issue (encode (.txwr 0 (cmdByte f reg))) s = some (s₁, r₁))
    (h₂ : issue (encode (.xferW dev.addr 1)) s₁ = some (s₂, r₂)) (hok₂ : rspST r₂ = Status.ok.code)
    (h₃ : issue (encode (.xferR dev.addr (BitVec.ofNat 8 len))) s₂ = some (s₃, r₃)) (hok₃ : rspST r₃ = Status.ok.code) :
    readRegister f dev reg len s = readBack len 0 s₃ := by
  rw [readRegister_after_write hpos hle h₁ h₂, if_pos (isOk_iff.mpr hok₂), andThen_of_issue _ h₃,
    if_pos (isOk_iff.mpr hok₃)]

theorem readRegister_refused (hpos : 1 ≤ len) (hle : len ≤ 255)
    (h₁ : issue (encode (.txwr 0 (cmdByte f reg))) s = some (s₁, r₁))
    (h₂ : issue (encode (.xferW dev.addr 1)) s₁ = some (s₂, r₂)) (hst : rspST r₂ = Status.addressNacked.code) :
    readRegister f dev reg len s = (s₂, .failure 0x01) := by
  rw [readRegister_after_write hpos hle h₁ h₂, isOk, hst]
  rfl

/-- The write phase with both its bytes acknowledged: 83 primitives and two samples (R141, R183). -/
theorem issue_xferW_acked {addr : BitVec 7} (hs : s.Ready) (hd : s.world.AllDone 83)
    (hack : ∀ k, k < 2 → s.world.sampleAt s.cfg k = false) :
    ∃ t r L, issue (encode (.xferW addr 1)) s = some (t, r) ∧ rspST r = Status.ok.code ∧
      Leads L (withPins [] s) t ∧ L.length = 83 ∧ L.count .sample = 2 := by
  obtain ⟨r, hcall, hst, hlead⟩ := issue_transfer (i := .xferW addr 1) hs rfl
    (exec_xferW_acked (hs.withPins []) (allDone_withPins hd []) fun k hk => by
      rw [withPins_sampleAt]
      exact hack k (Nat.lt_succ_of_le hk))
  exact ⟨_, r, _, hcall, hst, hlead, rfl, rfl⟩

/-- The read phase with its address acknowledged leaves the sampled bytes in RXBUF (R142). -/
theorem issue_xferR_acked {addr : BitVec 7} {n : Byte} (hs : s.Ready) (hn : n ≠ 0)
    (hd : s.world.AllDone (47 + 36 * n.toNat)) (hack : s.world.sampleAt s.cfg 0 = false) :
    ∃ t r, issue (encode (.xferR addr n)) s = some (t, r) ∧ rspST r = Status.ok.code ∧ t.Ready ∧
      ∀ k, k < n.toNat → readRx t (BitVec.ofNat 8 k) = s.world.byteAt s.cfg (1 + 8 * k) := by
  have hw : (Instr.xferR addr n).wf s.cfg = true := bne_iff_ne.mpr hn
  have hrun := exec_xferR_acked (addr := addr) (hs.withPins []) hn (allDone_withPins hd [])
    ((withPins_sampleAt ..).trans hack)
  obtain ⟨r, hcall, hst, hlead⟩ := issue_transfer hs hw hrun
  refine ⟨_, r, hcall, hst, hlead.ready, fun k hk => ?_⟩
  have htake (u : State) (j : Byte) : readRx (takeResponse u) j = readRx u j := rfl
  rw [htake, readRx_readEnd hn hk, withPins_byteAt, withPins_cfg, Nat.add_comm]

/-- Settles O55: the read phase stores the bytes that follow the three acknowledges, and the read-back returns them. -/
theorem readRegisterReturnsTheSampledBytes : Obligations.ReadRegisterReturnsTheSampledBytes := by
  unfold Obligations.ReadRegisterReturnsTheSampledBytes
  intro f dev reg len s hs _ hpos hle hd hack
  obtain ⟨s₁, r₁, hcall₁, hlead₁, -⟩ := issue_txwr hs 0 (cmdByte f reg)
  have hsample₁ (k : Nat) : s₁.world.sampleAt s₁.cfg k = s.world.sampleAt s.cfg k :=
    (hlead₁.sampleAt k).trans (withPins_sampleAt [] s s.cfg k)
  have hd₁ : s₁.world.AllDone (83 + 47 + 36 * len) := hlead₁.allDone (allDone_withPins hd []) (by simp)
  obtain ⟨s₂, r₂, L, hcall₂, hok₂, hlead₂, hlen, hcount⟩ := issue_xferW_acked (addr := dev.addr) hlead₁.ready
    (hd₁.mono (by omega)) fun k hk => (hsample₁ k).trans (hack k (by omega))
  rw [hlead₁.withPins_nil] at hlead₂
  have hack₂ : s₂.world.sampleAt s₂.cfg 0 = false := by
    rw [hlead₂.sampleAt, hcount, hsample₁]
    exact hack _ (by decide)
  have hnat : (BitVec.ofNat 8 len).toNat = len := toNat_ofNat_byte (by omega)
  have hne : BitVec.ofNat 8 len ≠ 0 := fun h => by
    rw [h] at hnat
    exact Nat.ne_of_lt hpos hnat
  obtain ⟨s₃, r₃, hcall₃, hok₃, hready₃, hbytes⟩ := issue_xferR_acked (addr := dev.addr) hlead₂.ready hne
    (hlead₂.allDone hd₁ (by omega)) hack₂
  obtain ⟨t, hback⟩ := readBack_eq hready₃ len 0
  rw [readRegister_acked hpos hle hcall₁ hcall₂ hok₂ hcall₃ hok₃, hback]
  refine congrArg HostResult.ok (List.map_congr_left fun k hk => ?_)
  have hlt : k < (BitVec.ofNat 8 len).toNat := by rwa [hnat, ← List.mem_range]
  rw [Nat.zero_add, hbytes k hlt, hlead₂.byteAt, hcount, hlead₁.byteAt, List.count_nil, withPins_byteAt]
  exact congrArg (s.world.byteAt s.cfg) (show 1 + 8 * k + 2 + 0 = 3 + 8 * k by omega)

/-- Settles O56: the write phase ends as `exec_transfer_addressNacked` says, and its status is handed through. -/
theorem readRegisterSkipsTheReadPhase : Obligations.ReadRegisterSkipsTheReadPhase := by
  unfold Obligations.ReadRegisterSkipsTheReadPhase
  intro f dev reg len s hs _ hpos hle hd hnack
  obtain ⟨s₁, r₁, hcall₁, hlead₁, hcmd, htx, hrx⟩ := issue_txwr hs 0 (cmdByte f reg)
  have hi : IsTransfer (.xferW dev.addr 1) := ⟨dev.addr, 1, .inl rfl⟩
  have hrun := exec_transfer_addressNacked hlead₁.ready hi (hlead₁.allDone (allDone_withPins hd []) (by simp))
    ((hlead₁.sampleAt 0).trans ((withPins_sampleAt [] s s.cfg 0).trans hnack))
  obtain ⟨htx₂, hrx₂⟩ := transfer_buffers hi hrun
  rw [← hlead₁.withPins_nil] at hrun
  obtain ⟨r₂, hcall₂, hst, hlead₂⟩ := issue_transfer hlead₁.ready rfl hrun
  rw [hlead₁.withPins_nil] at hcall₂ hlead₂
  rw [readRegister_refused hpos hle hcall₁ hcall₂ hst]
  exact ⟨rfl, (hlead₁.trans hlead₂).linesBetween, (htx₂ 0).trans hcmd, fun j hj => (htx₂ j).trans (htx j hj),
    fun j => ((hrx₂ j).resolve_right nofun).trans (hrx j)⟩

end Sys2Proof.Machine
end

section
/-! PROOFS. with_retry (R185): what it does of each result, and the recovery between its two attempts. -/

namespace Sys2Proof.Machine

variable {s t u : State} {c : Word}

/-! ### The program -/

/-- Every result but failure(BUS_TIMEOUT) is handed through, with no command issued. -/
theorem withRetry_other {α : Type} {op : State → State × HostResult α} {r : HostResult α} (hop : op s = (t, r))
    (hr : r ≠ .failure 0x03) : withRetry op s = (t, r) := by
  rw [withRetry, hop]
  cases r with
  | failure st =>
    have hst : st ≠ Status.busTimeout.code := fun h => hr (congrArg HostResult.failure h)
    exact if_neg hst
  | ok | hardFailure | rejected | noResponse => rfl

/-- After failure(BUS_TIMEOUT) the recovery decides: one more attempt, or a hard failure. -/
theorem withRetry_timeout {α : Type} {op : State → State × HostResult α} (hop : op s = (t, .failure 0x03))
    (hcall : issue (encode (.recover true)) t = some (u, c)) : withRetry op s =
      if isOk c then ((op u).1, harden (op u).2) else (u, .hardFailure (rspST c)) := by
  rw [withRetry, hop]
  exact andThen_of_issue _ hcall

theorem withRetry_recovered {α : Type} {op : State → State × HostResult α} (hop : op s = (t, .failure 0x03))
    (hcall : issue (encode (.recover true)) t = some (u, c)) (hok : rspST c = 0x00) :
    withRetry op s = ((op u).1, harden (op u).2) := by
  rw [withRetry_timeout hop hcall, if_pos (isOk_iff.mpr hok)]

theorem withRetry_hardFailure {α : Type} {op : State → State × HostResult α} (hop : op s = (t, .failure 0x03))
    (hcall : issue (encode (.recover true)) t = some (u, c)) (hst : rspST c ≠ 0x00) :
    withRetry op s = (u, .hardFailure (rspST c)) := by
  rw [withRetry_timeout hop hcall, if_neg (mt isOk_iff.mp hst)]

/-! ### The recovery -/

/-- A fault at one of the first two primitives of a recovery, before any pulse (R204). -/
theorem exec_recover_fault {force : Bool} {k : Nat} (hs : s.fsm = .idle) (hk : k < 2) (hd : s.world.AllDone k)
    (hx : s.world.ackAt k = .fault) : ∃ t, exec (.recover force) s = .next t ∧ t.rsp = some 0x03000000 := by
  have hrun := advance_fault (s := entry s (.recover force)) (L := recSampleSeq) k (Config.maxPrimitives - (k + 1))
    rfl rfl (List.getElem?_eq_getElem hk) nofun nofun hd hx
  have hsteps : k + (Config.maxPrimitives - (k + 1) + 1) = Config.maxPrimitives := by
    rw [Config.maxPrimitives]
    omega
  rw [hsteps] at hrun
  refine ⟨_, (exec_eq_advance_entry (.recover force) hs).trans (congrArg _ hrun), ?_⟩
  have hcount : countOf (takeAck (setPhase k (performAll (recSampleSeq.take k) (entry s (.recover force))))) = 0 := by
    simp [countOf, entry]
  rw [busTimeout, respond_rsp, hcount]
  rfl

/-- Settles O57: the branches of with_retry, and the recovery on a line never released, at a fault, and on a free
line. -/
theorem retryRecoversOnlyFromATimeout : Obligations.RetryRecoversOnlyFromATimeout := by
  unfold Obligations.RetryRecoversOnlyFromATimeout
  intro α op s t r hop
  refine ⟨withRetry_other hop, ?_⟩
  rintro rfl
  refine ⟨fun u c hcall => ⟨withRetry_hardFailure hop hcall, fun hok => ?_⟩, fun ht _ => ⟨?stuck, ?fault, ?free⟩⟩
  · rw [withRetry_recovered hop hcall hok]
    refine ⟨fun hres => ?_, fun hres => ?_⟩
    · rw [hres]
      rfl
    · rw [harden_other hres]
  case stuck =>
    intro hd hheld
    obtain ⟨t', hrun, -, -, hrsp, -⟩ := recoverOfAStuckLine (withPins [] t) true (ht.withPins [])
      (allDone_withPins hd []) fun k hk => (withPins_sampleAt ..).trans (hheld k hk)
    obtain ⟨hcall, -⟩ := issue_of_response ht rfl hrun hrsp
    exact ⟨_, hcall, withRetry_hardFailure hop hcall (by decide)⟩
  case fault =>
    intro k hk hd hx
    obtain ⟨t', hrun, hrsp⟩ := exec_recover_fault (s := withPins [] t) (force := true) ht.idle hk
      (allDone_withPins hd []) ((withPins_ackAt ..).trans hx)
    obtain ⟨hcall, -⟩ := issue_of_response ht rfl hrun hrsp
    exact ⟨_, hcall, withRetry_hardFailure hop hcall (by decide)⟩
  case free =>
    intro hd hfree
    obtain ⟨-, hforced⟩ := recoverOfAFreeLine
    obtain ⟨t', hrun, hlines, -, hrsp, -, -, -, -, hline⟩ := hforced (withPins [] t) true (ht.withPins [])
      (allDone_withPins hd []) ((withPins_sampleAt ..).trans hfree)
    obtain ⟨hcall, hready⟩ := issue_of_response ht rfl hrun hrsp
    exact ⟨_, hcall, hready, hline, hlines⟩

end Sys2Proof.Machine
end

section
/-! PROOFS. The exceptions of one step: an illegal word (R94, R206), a faulted primitive (R204), and that no step halts the
engine (R200, R210). -/

namespace Sys2Proof.Machine

variable {s : State}

/-- A word that selects no row does not decode (R94). -/
theorem decode_of_no_row_selected {c : Config} {w : Word} (h : ∀ r, ¬ rowSelects c w r) :
    ∃ e, decode c w = .error e := by
  cases hd : decode c w with
  | error e => exact ⟨e, rfl⟩
  | ok i => exact absurd (decode_eq_ok_iff.mp hd).1 (h i.row)

/-- Settles O8: the word does not decode, so the step is `step_illegal`, with the pins written out. -/
theorem illegalWordChangesOnlyErr : Obligations.IllegalWordChangesOnlyErr := by
  unfold Obligations.IllegalWordChangesOnlyErr
  intro s w ready rest hs hp hrow
  obtain ⟨e, hd⟩ := decode_of_no_row_selected hrow
  have hh := hostPins_of_pins hp
  rw [step_illegal hs (by rw [hh]) (by rw [hh]) hd, takePins_of_pins hp]
  rfl

/-- Settles O13: the primitive is answered BUS_TIMEOUT, and of the fault itself only the event and the inputs are left
(`performFault_eq`). -/
theorem faultedPrimitiveEndsTheCommandAtOnce : Obligations.FaultedPrimitiveEndsTheCommandAtOnce := by
  unfold Obligations.FaultedPrimitiveEndsTheCommandAtOnce
  intro s l hl ha
  obtain ⟨w, hw, -⟩ := performFault_eq l (takeAck s)
  rw [primStep_fault hl ha, busTimeout, hw]
  exact ⟨rfl, rfl, rfl, rfl, rfl, rfl, rfl, rfl, rfl, rfl, rfl, rfl, rfl, rfl, rfl, rfl, rfl, rfl⟩

/-- Settles O54: reset, a run (the position of a busy engine names a primitive, `Inv_nextLine`), the response port and the
command port each answer a next state. -/
theorem stepAlwaysAnswersNext : Obligations.StepAlwaysAnswersNext := by
  unfold Obligations.StepAlwaysAnswersNext
  intro s h
  cases hp : s.world.hostPins.rst with
  | true => exact ⟨_, step_reset h.legal hp⟩
  | false =>
    by_cases hi : s.fsm = .idle
    swap
    · obtain ⟨l, hn⟩ := Inv_nextLine h hi
      exact ⟨_, step_runs h.legal hp hi (by simp [hn])⟩
    cases hr : s.rsp with
    | some r => exact ⟨_, step_waiting h.legal hp hi hr⟩
    | none =>
      have hs : s.Ready := ⟨h.legal, hi, hr⟩
      cases ho : s.world.hostPins.cmd with
      | none => exact ⟨_, step_quiet hs hp ho⟩
      | some w =>
        cases hd : decode s.cfg w with
        | error e => exact ⟨_, step_illegal hs hp ho hd⟩
        | ok i => exact ⟨_, (step_accept hs hp ho hd).trans (exec_eq_advance_entry i hi)⟩

end Sys2Proof.Machine
end

section
/-! PROOFS. Only XFER.W ends DATA_NACKED (R202): the status is made pending at the end of ACK_DATA in a write, and nowhere
else. -/

namespace Sys2Proof.Machine

variable {s t : State} {i : Instr}

/-- Each status has its own code (R96). -/
theorem Status.code_ne_dataNacked {st : Status} : st ≠ .dataNacked → st.code ≠ Status.dataNacked.code := by
  cases st <;> decide

/-- No DATA_NACKED is reported, and none is about to be: an idle engine's ERR is another code, and so is the status that a
STOP state will report. -/
structure State.DataNackFree (s : State) : Prop where
  answered : s.fsm = .idle → s.err ≠ Status.dataNacked.code
  pending : s.fsm = .stop → s.stopStatus ≠ .dataNacked

/-! ### The transitions -/

/-- In the states other than IDLE and STOP there is nothing to show. -/
theorem DataNackFree_of_fsm (hi : s.fsm ≠ .idle) (hp : s.fsm ≠ .stop) : s.DataNackFree :=
  ⟨fun h => absurd h hi, fun h => absurd h hp⟩

/-- Only FSM, ERR and the pending status count. -/
theorem DataNackFree_congr (h : s.DataNackFree) (hf : t.fsm = s.fsm) (he : t.err = s.err)
    (hst : t.stopStatus = s.stopStatus) : t.DataNackFree :=
  ⟨by rw [hf, he]; exact h.answered, by rw [hf, hst]; exact h.pending⟩

theorem DataNackFree_respond {st : Status} (c v : Byte) (hst : st ≠ .dataNacked) : (respond st c v s).DataNackFree :=
  ⟨fun _ => Status.code_ne_dataNacked hst, nofun⟩

theorem DataNackFree_illegalCmd (hi : s.fsm = .idle) : (illegalCmd s).DataNackFree :=
  ⟨fun _ => Status.code_ne_dataNacked (st := .illegalCmd) nofun, fun hp => nomatch hi.symm.trans hp⟩

theorem DataNackFree_enterStop {st : Status} (hst : st ≠ .dataNacked) : (enterStop st s).DataNackFree :=
  ⟨nofun, fun _ => hst⟩

theorem DataNackFree_countByte (s : State) : (countByte s).DataNackFree := by
  obtain ⟨-, h⟩ | ⟨-, h⟩ := countByte_cases s <;> rw [h]
  · exact DataNackFree_enterStop nofun
  · exact DataNackFree_of_fsm nofun nofun

theorem DataNackFree_finishAckAddr (s : State) : (finishAckAddr s).DataNackFree := by
  simp only [finishAckAddr]
  split
  · exact DataNackFree_enterStop nofun
  · split
    · exact DataNackFree_enterStop nofun
    · exact DataNackFree_of_fsm nofun nofun

theorem DataNackFree_finishRecPulse (s : State) : (finishRecPulse s).DataNackFree := by
  simp only [finishRecPulse]
  split
  · exact DataNackFree_enterStop nofun
  · split
    · exact DataNackFree_of_fsm nofun nofun
    · exact DataNackFree_enterStop nofun

/-- The ends of a sub-sequence, those three apart that choose the status of a STOP. -/
theorem SeqEnd.dataNackFree (he : SeqEnd s t) (h : s.DataNackFree) (haddr : s.fsm ≠ .ackAddr) (hdata : s.fsm ≠ .ackData)
    (hpulse : s.fsm ≠ .recPulse) : t.DataNackFree := by
  cases he with
  | stopped hf => exact DataNackFree_respond _ _ (h.pending hf)
  | lineFree | single | wbyteLast => exact DataNackFree_respond _ _ nofun
  | lineForced => exact DataNackFree_enterStop nofun
  | addressOnly hf => exact absurd hf haddr
  | byteAnswered hf | byteAcked hf | byteNacked hf => exact absurd hf hdata
  | pulseLast hf => exact absurd hf hpulse
  | started | addressBit | addressByte | addressAcked | bitSent | bitReceived | byteSent | byteReceived | lineHeld
  | pulseHeld | wbyteBit | rbyteBit => exact DataNackFree_of_fsm nofun nofun

/-- No sub-sequence but the acknowledge of a write's payload byte makes DATA_NACKED pending (R146). -/
theorem DataNackFree_finishSeq (h : s.DataNackFree) (hne : currentSeq s ≠ []) (hread : s.fsm = .ackData → s.rw = true) :
    (finishSeq s).DataNackFree := by
  cases hf : s.fsm with
  | ackAddr => simpa only [finishSeq, hf] using DataNackFree_finishAckAddr s
  | ackData => simpa only [finishSeq, hf, finishAckData, hread hf, if_true] using DataNackFree_countByte s
  | recPulse => simpa only [finishSeq, hf] using DataNackFree_finishRecPulse s
  | idle | start | address | dataPhase | stop | recSample | single =>
    exact (finishSeq_seqEnd hne).dataNackFree h (by simp [hf]) (by simp [hf]) (by simp [hf])

/-! ### A run -/

theorem DataNackFree_performed (l : Line) (h : s.DataNackFree) : (performed l s).DataNackFree := by
  obtain ⟨p, hp⟩ := performed_eq l s
  exact DataNackFree_congr h (by simp) (by simp) (by simp [hp])

theorem DataNackFree_primStep (h : s.DataNackFree) (hread : s.fsm = .ackData → s.rw = true) :
    (primStep s).DataNackFree := by
  cases hl : nextLine s with
  | none => simpa only [primStep, hl] using h
  | some l =>
    cases ha : s.world.ack with
    | done =>
      have hdone := DataNackFree_performed l h
      by_cases hlt : s.phase + 1 < (currentSeq s).length
      · rw [primStep_next hl ha hlt]
        exact DataNackFree_congr hdone rfl rfl rfl
      · rw [primStep_last hl ha hlt]
        exact DataNackFree_finishSeq hdone (by simpa using currentSeq_ne_nil hl) (by simpa using hread)
    | fault =>
      rw [primStep_fault hl ha]
      exact DataNackFree_respond _ _ nofun
    | wait =>
      rw [primStep_wait hl ha]
      exact DataNackFree_congr h rfl rfl rfl

/-- A command of an idle engine begins without DATA_NACKED, whatever ERR and the pending status were. -/
theorem DataNackFree_entry (i : Instr) (hi : s.fsm = .idle) : (entry s i).DataNackFree := by
  cases i with
  | xferR addr n =>
    simp only [entry]
    split
    · exact DataNackFree_illegalCmd hi
    · exact DataNackFree_of_fsm nofun nofun
  | auxset bit value =>
    simp only [entry]
    split
    · exact DataNackFree_illegalCmd hi
    · exact DataNackFree_of_fsm nofun nofun
  | txwr | rxrd => exact DataNackFree_respond _ _ nofun
  | start | stop | wbit | rbit | wbyte | rbyte | xferW | recover => exact DataNackFree_of_fsm nofun nofun

/-- A response is given by an idle engine (R36, R41). -/
theorem State.Reported.idle_of_rsp {e : Byte} {r : Word} (h : s.Reported e) (hr : s.rsp = some r) : s.fsm = .idle := by
  obtain ⟨-, hn, -⟩ | ⟨hi, -⟩ := h
  · simp [hr] at hn
  · exact hi

/-- In ACK_DATA every command but XFER.W is a read. -/
theorem rw_of_ackData (h : s.Running i) (hi : ¬ ∃ addr n, i = .xferW addr n) (hf : s.fsm = .ackData) : s.rw = true := by
  have hat : s.transferLatched ∧ s.bytecnt < s.len := by simpa [State.AtByte, hf] using h.atByte
  obtain ⟨addr, hw, -⟩ | ⟨-, -, hr, -⟩ := transferLatched_instr hat.1 (h.cur (by simp [hf]))
  · exact absurd ⟨addr, s.len, hw⟩ hi
  · exact hr

/-- A command that ends DATA_NACKED is XFER.W (R202). -/
theorem xferW_of_dataNacked {r : Word} (hs : s.Ready) (h : exec i s = .next t) (hr : t.rsp = some r)
    (hst : rspST r = Status.dataNacked.code) : ∃ addr n, i = .xferW addr n := by
  by_contra hi
  have hfree : t.DataNackFree := exec_running_induction (DataNackFree_illegalCmd hs.idle) (DataNackFree_entry i hs.idle)
    (fun _ u hrun hu _ => DataNackFree_primStep hu (rw_of_ackData hrun hi)) h
  have hrep := Reported_exec hs h
  exact hfree.answered (hrep.idle_of_rsp hr) ((hrep.err_of_rsp hr).trans hst)

end Sys2Proof.Machine
end

section
/-! PROOFS. A transfer refused by its slave, all primitives done: ADDRESS_NACKED (R201) and DATA_NACKED (R202). -/

namespace Sys2Proof.Machine

variable {n : Byte} {isRead : Bool}

/-! ### A refused address -/

/-- The transfers as the claims name them, the direction a parameter. -/
theorem isTransfer_ite (addr : BitVec 7) (hn : isRead = true → n ≠ 0) :
    IsTransfer (if isRead then .xferR addr n else .xferW addr n) := by
  cases isRead with
  | true => exact ⟨addr, n, .inr ⟨rfl, hn rfl⟩⟩
  | false => exact ⟨addr, n, .inl rfl⟩

/-- What a transfer latches (R31, R93, R140). -/
theorem entry_transfer_latches (s : State) (addr : BitVec 7) (hn : isRead = true → n ≠ 0) :
    (entry s (if isRead then .xferR addr n else .xferW addr n)).addrb = addressByte addr isRead ∧
    (entry s (if isRead then .xferR addr n else .xferW addr n)).bytecnt = 0 := by
  cases isRead with
  | true =>
    rw [if_pos rfl, entry, if_neg (hn rfl)]
    exact ⟨rfl, rfl⟩
  | false => exact ⟨rfl, rfl⟩

theorem lines_address (a : Byte) : (addressLines a).length = 41 ∧ (addressLines a).count .sample = 1 ∧
    (addressLines a).all (!·.isAux) = true := ⟨rfl, rfl, rfl⟩

/-- The registers of a transfer refused at its address byte (R201). -/
def addressRefused (i : Instr) (s : State) : State := withByte 0 0 (withNinthBit true (entry s i))

/-- Settles O23: the transfer ends as `exec_transfer_addressNacked` says; its one sample is the refusal. -/
theorem addressNackEndsTheTransferWithAStop : Obligations.AddressNackEndsTheTransferWithAStop := by
  unfold Obligations.AddressNackEndsTheTransferWithAStop
  intro s addr n isRead hs hn hd hnack
  have hi := isTransfer_ite addr hn
  have hrun := exec_transfer_addressNacked hs hi hd hnack
  obtain ⟨haddrb, hcnt⟩ := entry_transfer_latches s addr hn
  obtain ⟨htx, -⟩ := transfer_buffers hi hrun
  rw [haddrb] at hrun htx
  obtain ⟨-, hcount, haux⟩ := lines_address (addressByte addr isRead)
  generalize (if isRead then Instr.xferR addr n else Instr.xferW addr n) = i at *
  obtain ⟨hidle, hrsp, herr, hbyte, hackf⟩ := transferEnd_regs .addressNacked (addressRefused i s)
    (addressLines (addressByte addr isRead)) s
  have hzero : (addressRefused i s).bytecnt = 0 := hcnt
  rw [hzero] at hrsp hbyte
  exact ⟨_, hrun, linesBetween_transferEnd .., hidle, hrsp, herr, hbyte, hackf, (transferEnd_sbit _ _ hcount).trans hnack,
    transferEnd_atIdleLine _ _ hs.legal haux, htx,
    fun j => (readRx_transferEnd ..).trans (entry_readRx s i j)⟩

/-! ### A refused payload byte -/

/-- The registers of a write refused at its c-th payload byte (R202). -/
def writeRefused (addr : BitVec 7) (n : Byte) (c : Nat) (s : State) : State :=
  withByte 0 0 (withNinthBit true (withCount c (writing (entry s (.xferW addr n)))))

/-- BYTECNT of a refused write counts the bytes acknowledged before (R29, R202). -/
theorem writeRefused_bytecnt (addr : BitVec 7) (n c : Byte) (s : State) : (writeRefused addr n c.toNat s).bytecnt = c :=
  withCount_bytecnt c (writing (entry s (.xferW addr n)))

/-- Settles O24: no other command makes the status (`xferW_of_dataNacked`), and a write refused at payload byte c ends as
`exec_xferW_nacked` says; its last sample is the refusal. -/
theorem dataNackEndsTheWriteWithAStop : Obligations.DataNackEndsTheWriteWithAStop := by
  unfold Obligations.DataNackEndsTheWriteWithAStop
  refine ⟨fun s t i r hs h hr hst => xferW_of_dataNacked hs h hr hst, fun s addr n c hs hc hd hack hnack => ?_⟩
  have hrun := exec_xferW_nacked (addr := addr) hs (BitVec.lt_def.mp hc) hd hack hnack
  obtain ⟨-, hcount, haux⟩ := lines_write addr (payload s (c.toNat + 1))
  rw [length_payload, Nat.add_comm 1] at hcount
  obtain ⟨hidle, hrsp, herr, hcnt, hackf⟩ := transferEnd_regs .dataNacked (writeRefused addr n c.toNat s)
    (addressLines (addressByte addr false) ++ sendBytes (payload s (c.toNat + 1))) s
  rw [writeRefused_bytecnt] at hrsp hcnt
  exact ⟨_, hrun, linesBetween_transferEnd .., hidle, hrsp, herr, hcnt, hackf,
    (transferEnd_sbit _ _ hcount).trans hnack, transferEnd_atIdleLine _ _ hs.legal haux⟩

end Sys2Proof.Machine
end

section
/-! PROOFS. A fault in the STOP that follows a NACK or a stuck recovery (R209 (3)). -/

namespace Sys2Proof.Machine

variable {s r t : State} {i : Instr} {L : List Line} {st : Status} {l : Line} {k : Nat}

/-! ### Any STOP -/

/-- What a command leaves whose line steps L led to STOP with registers r, where the k-th of the six primitives faults:
BUS_TIMEOUT with the count of r, and ACKF and SBIT from before the STOP (R204). -/
structure StopFault (L : List Line) (r : State) (k : Nat) (s t : State) : Prop where
  lines : linesBetween s t = (L ++ stopLines.take k).map some ++ [none]
  idle : t.fsm = .idle
  rsp : t.rsp = some (response .busTimeout (countOf r) 0)
  err : t.err = 0x03
  ackf : t.ackf = r.ackf
  sbit : ∀ c, L.count .sample = c + 1 → t.sbit = s.world.sampleAt s.cfg c

theorem StopFault.rsp_of_count {c : Byte} (h : StopFault L r k s t) (hc : countOf r = c) :
    t.rsp = some (packWord 0x03 c 0 0) := hc ▸ h.rsp

/-- The engine when it offers the k-th primitive of that STOP. -/
def inStop (L : List Line) (st : Status) (r : State) (k : Nat) (s : State) : State :=
  setPhase k (onPort (enterStop st r) (performAll (L ++ stopLines.take k) s))

theorem count_sample_take_stopLines (k : Nat) : (stopLines.take k).count .sample = 0 :=
  List.count_eq_zero.mpr fun h => absurd (List.mem_of_mem_take h) (by decide)

theorem stopFault_busTimeout (L : List Line) (st : Status) (r : State) (k : Nat) (s : State) (l : Line) :
    StopFault L r k s (busTimeout l (takeAck (inStop L st r k s))) := by
  obtain ⟨-, hackf, hsbit⟩ := busTimeout_keeps l (takeAck (inStop L st r k s))
  refine ⟨?_, rfl, rfl, rfl, hackf, fun c hc => hsbit.trans ?_⟩
  · obtain ⟨es, htr, hline⟩ := performAll_trace (L ++ stopLines.take k) s
    have hev : (busTimeout l (takeAck (inStop L st r k s))).trace = s.trace ++ (es ++ [.fault]) := by
      rw [busTimeout_trace, ← List.append_assoc]
      exact congrArg (· ++ [Event.fault]) htr
    rw [linesBetween, eventsBetween_of_trace hev, List.map_append, hline]
    rfl
  · have hcount : (L ++ stopLines.take k).count .sample = c + 1 := by
      rw [List.count_append, count_sample_take_stopLines, hc]
    exact (performAll_sbit (L ++ stopLines.take k) s).trans (by rw [hcount]; rfl)

/-- A command whose moves lead to STOP, with a fault at the STOP's k-th primitive. -/
theorem exec_stop_fault (hs : s.fsm = .idle) (hport : onPort (entry s i) s = entry s i)
    (h : Moves s (entry s i) L (enterStop st r)) (hk : k < 6) (hd : s.world.AllDone (L.length + k))
    (hx : s.world.ackAt (L.length + k) = .fault) (hlen : L.length + k < Config.maxPrimitives) :
    ∃ t, exec i s = .next t ∧ StopFault L r k s t := by
  obtain ⟨n, hn⟩ := Nat.exists_eq_add_of_lt hlen
  have hmoves := h (hd.mono (Nat.le_add_right _ k)) (k + (n + 1))
  have hack (j : Nat) : (performAll L s).world.ackAt j = s.world.ackAt (L.length + j) := by
    rw [performAll_ackAt, Nat.add_comm]
  have hfault := advance_fault (s := onPort (enterStop st r) (performAll L s)) (L := stopLines) k n rfl rfl
    (List.getElem?_eq_getElem hk) nofun nofun (fun j hj => (hack j).trans (hd _ (by omega))) ((hack k).trans hx)
  rw [performAll_onPort, ← performAll_append] at hfault
  rw [hport, hfault] at hmoves
  refine ⟨_, ?_, stopFault_busTimeout L st r k s stopLines[k]⟩
  rw [exec_eq_advance_entry i hs, hn, show L.length + k + n + 1 = L.length + (k + (n + 1)) by omega, hmoves]
  rfl

/-! ### The STOP of a refused transfer -/

/-- CNT of a transfer is BYTECNT (R97, R204). -/
theorem countOf_transfer (hi : IsTransfer i) (hc : r.cur = some i) : countOf r = r.bytecnt := by
  obtain ⟨addr, n, rfl | ⟨rfl, -⟩⟩ := hi <;> simp [countOf, hc]

/-- A refused address leads to STOP (R201). -/
theorem moves_addressNacked (hi : IsTransfer i) (hnack : s.world.sampleAt s.cfg 0 = true) :
    Moves s (entry s i) (addressLines (entry s i).addrb) (enterStop .addressNacked (addressRefused i s)) := by
  obtain ⟨hf, hp, -⟩ := entry_transfer s hi
  have haddr := moves_addressLines (u := s) hf hp
  rwa [hnack, if_pos rfl] at haddr

/-- A refused payload byte leads to STOP (R202). -/
theorem moves_dataNacked {addr : BitVec 7} {n : Byte} {c : Nat} (hc : c < n.toNat)
    (hack : ∀ j, j ≤ c → s.world.sampleAt s.cfg j = false) (hnack : s.world.sampleAt s.cfg (c + 1) = true) :
    Moves s (entry s (.xferW addr n)) (addressLines (addressByte addr false) ++ sendBytes (payload s (c + 1)))
      (enterStop .dataNacked (writeRefused addr n c s)) := by
  obtain ⟨-, hcount, -⟩ := lines_write addr (payload s c)
  rw [length_payload] at hcount
  rw [sendBytes_payload_succ, ← List.append_assoc]
  refine (moves_write hc.le hack).trans (moves_writeByte_nacked (r := entry s (.xferW addr n)) rfl hc ?_)
  rw [performAll_sampleAt, performAll_cfg, hcount, Nat.zero_add, Nat.add_comm]
  exact hnack

/-! ### The three cases -/

/-- Settles O25: `exec_stop_fault` after the NACK of an address byte, the NACK of a payload byte, and the tenth pulse. -/
theorem faultInTheStopReplacesTheNack : Obligations.FaultInTheStopReplacesTheNack := by
  unfold Obligations.FaultInTheStopReplacesTheNack
  refine ⟨?address, ?data, ?recovery⟩
  case address =>
    intro s addr n isRead k hs hn hk hd hnack hx
    have hi := isTransfer_ite addr hn
    obtain ⟨-, -, hcur, hport⟩ := entry_transfer s hi
    obtain ⟨haddrb, hcnt⟩ := entry_transfer_latches s addr hn
    have hmoves := moves_addressNacked hi hnack
    rw [haddrb] at hmoves
    generalize (if isRead then Instr.xferR addr n else Instr.xferW addr n) = i at *
    obtain ⟨hlen, hcount, -⟩ := lines_address (addressByte addr isRead)
    obtain ⟨t, hrun, hend⟩ := exec_stop_fault hs.idle hport hmoves hk (hlen ▸ hd) (hlen ▸ hx)
      (by rw [hlen, Config.maxPrimitives]; omega)
    have hzero := (countOf_transfer (r := addressRefused i s) hi hcur).trans hcnt
    exact ⟨t, hrun, hend.lines, hend.idle, hend.rsp_of_count hzero, hend.err, hend.ackf,
      (hend.sbit 0 hcount).trans hnack⟩
  case data =>
    intro s addr n c k hs hc hk hd hack hnack hx
    have hlt : c.toNat < n.toNat := BitVec.lt_def.mp hc
    have hmoves := moves_dataNacked (addr := addr) hlt hack hnack
    obtain ⟨hlen, hcount, -⟩ := lines_write addr (payload s (c.toNat + 1))
    rw [length_payload] at hlen hcount
    have hn := n.isLt
    obtain ⟨t, hrun, hend⟩ := exec_stop_fault hs.idle rfl hmoves hk (hlen ▸ hd) (hlen ▸ hx)
      (by rw [hlen, Config.maxPrimitives]; omega)
    have hcnt : countOf (writeRefused addr n c.toNat s) = c := writeRefused_bytecnt addr n c s
    exact ⟨t, hrun, hend.lines, hend.idle, hend.rsp_of_count hcnt, hend.err, hend.ackf,
      (hend.sbit (c.toNat + 1) (by rw [hcount, Nat.add_comm])).trans hnack⟩
  case recovery =>
    intro s force k hs hk hd hheld hx
    have hmoves := moves_recover_held (force := force) (Nat.le_refl 10) fun j hj => hheld j (by omega)
    obtain ⟨hlen, hcount, -⟩ := recoverLines_facts 10
    obtain ⟨t, hrun, hend⟩ := exec_stop_fault (st := .busStuck) hs.idle rfl hmoves hk (hlen ▸ hd) (hlen ▸ hx)
      (by rw [hlen, Config.maxPrimitives]; omega)
    have hten : countOf (withPulses 10 (entry s (.recover force))) = 10 := by simp [countOf, withPulses, entry]
    exact ⟨t, hrun, hend.lines, hend.idle, hend.rsp_of_count hten, hend.err, hend.ackf,
      (hend.sbit 10 hcount).trans (hheld 10 (by decide))⟩

end Sys2Proof.Machine
end

section
/-! PROOFS. Every command ends with a response within its bound (R148, R244): an answered primitive takes one answer of the
environment and leaves one event, and there are at most `remaining` primitives. -/

namespace Sys2Proof.Machine

variable {s t : State} {i : Instr} {l : Line} {n : Nat}

/-! ### What an answered primitive takes and leaves -/

/-- A faulted write's free choice (U3) draws on none of the answers to come. -/
theorem performFault_ackAt (l : Line) (s : State) (k : Nat) :
    (performFault l s).world.ackAt k = s.world.ackAt k :=
  World.ackAt_congr _ _ (by cases l <;> rfl) (by cases l <;> rfl) k

/-- Each primitive takes one answer of the environment. -/
theorem primStep_ackAt (hl : nextLine s = some l) (k : Nat) :
    (primStep s).world.ackAt k = s.world.ackAt (k + 1) := by
  cases ha : s.world.ack with
  | done => rw [primStep_done hl ha, (advancePhase_same _).world, perform_ackAt, takeAck_world, World.ackAt_succ]
  | wait => rw [primStep_wait hl ha, takeAck_world, World.ackAt_succ]
  | fault =>
    rw [primStep_fault hl ha, busTimeout, respond_world, performFault_ackAt, takeAck_world, World.ackAt_succ]

/-- A primitive that is done or faults leaves one event (R11). -/
theorem primStep_event (hl : nextLine s = some l) (ha : s.world.ack ≠ .wait) :
    ∃ e, (primStep s).trace = s.trace ++ [e] := by
  obtain ⟨-, hn⟩ | ⟨l', -, ⟨-, hd⟩ | ⟨hw, -⟩ | ⟨-, w, hf⟩⟩ := primStep_cases s
  · simp [hl] at hn
  · obtain ⟨v, hv⟩ := perform_trace l' (takeAck s)
    exact ⟨.done l' v, hd.trace.trans hv⟩
  · exact absurd hw ha
  · exact ⟨.fault, by rw [hf, respond_trace]⟩

/-! ### The run -/

/-- A run that never waits is over, with at most one event per unit of fuel, once the fuel covers the primitives left. -/
theorem advance_ends (h : s.Located) (hn : remaining s ≤ n) (hw : s.world.NoWait n) :
    (advance n s).fsm = .idle ∧ ∃ es, (advance n s).trace = s.trace ++ es ∧ es.length ≤ n := by
  induction n generalizing s with
  | zero =>
    have hi : s.fsm = .idle := by
      by_contra hb
      have := afterSeq_lt_remaining h hb
      omega
    exact ⟨hi, [], (List.append_nil _).symm, Nat.le_refl 0⟩
  | succ n ih =>
    by_cases hb : s.fsm = .idle
    · rw [advance_idle hb]
      exact ⟨hb, [], (List.append_nil _).symm, Nat.zero_le _⟩
    have ha : s.world.ack ≠ .wait := hw 0 (Nat.succ_pos n)
    obtain ⟨l, hl⟩ := h.nextLine hb
    obtain ⟨hloc, hrem⟩ := primStep_progress h hb ha
    obtain ⟨e, he⟩ := primStep_event hl ha
    have hw' : (primStep s).world.NoWait n := fun k hk =>
      primStep_ackAt hl k ▸ hw (k + 1) (Nat.succ_lt_succ hk)
    obtain ⟨hi, es, htr, hlen⟩ := ih hloc (by omega) hw'
    rw [advance_succ hb ha]
    exact ⟨hi, e :: es, by rw [htr, he, List.append_assoc, List.singleton_append], Nat.succ_le_succ hlen⟩

/-- A command that no word encodes is answered at once; another runs from its entry state, for which `maxPrims` is fuel
enough. -/
theorem exec_ends (hi : s.fsm = .idle) (hw : s.world.NoWait i.maxPrims) (h : exec i s = .next t) :
    t.fsm = .idle ∧ ∃ es, t.trace = s.trace ++ es ∧ es.length ≤ i.maxPrims := by
  obtain rfl | ⟨hwf, rfl⟩ := exec_cases h
  · exact ⟨hi, [], (List.append_nil _).symm, Nat.zero_le _⟩
  · obtain ⟨hloc, hrem⟩ := located_remaining_entry s hwf
    obtain ⟨-, hworld, -⟩ := entry_keeps s i
    have hends := advance_ends hloc hrem (hworld ▸ hw)
    rwa [entry_trace, ← advance_fuel hloc hrem (maxPrims_le i)] at hends

/-- A command found idle after it was accepted has its response (R36). -/
theorem State.Reported.rsp_of_idle {e : Byte} (h : s.Reported e) (hi : s.fsm = .idle) : s.rsp.isSome = true := by
  obtain ⟨hb, -⟩ | ⟨-, r, hr, -⟩ := h
  · exact absurd hi hb
  · simp [hr]

/-- Settles O50: the run is over within the bound (`exec_ends`), and a command that is over is answered (`Reported_exec`). -/
theorem everyCommandEndsWithinItsBound : Obligations.EveryCommandEndsWithinItsBound := by
  unfold Obligations.EveryCommandEndsWithinItsBound
  intro s i hs hw
  have h := exec_eq_advance_entry i hs.idle
  obtain ⟨hi, es, htr, hlen⟩ := exec_ends hs.idle hw h
  exact ⟨_, es, h, hi, (Reported_exec hs h).rsp_of_idle hi, htr, hlen⟩

end Sys2Proof.Machine
end
